-- ==== Sys2Proof/Word.lean ====
section
/-! DEFINITION. The value types of the OP4 ARX unit (spec/00_scope.md R7, R10): bytes, 32-bit words, the
fixed-length byte and word strings, and the 13-bit host bus address. All arithmetic on them wraps (R11). -/

namespace Sys2Proof

/-- An unsigned 8-bit integer (R10); `*` on it is the mod-256 product of R11. -/
abbrev Byte := BitVec 8

/-- An unsigned 32-bit integer (R10); `+` and `-` on it are modulo 2^32 (R11). -/
abbrev Word := BitVec 32

/-- A block, the 24-byte state of the round function (R7 `BW`, R13). Index j is the byte at offset j. -/
abbrev Block := Vector Byte 24

/-- The six words `v_0 .. v_5` of a block (R7 `W`, R121). -/
abbrev Words6 := Vector Word 6

/-- The 32-byte key state of the key schedule (R7 `KL`, R160). -/
abbrev KeyState := Vector Byte 32

/-- The eight words `u_0 .. u_7` of a key state (R160). -/
abbrev Words8 := Vector Word 8

/-- The round-key material, 192 bytes (R7 `RKB`, R38). -/
abbrev RoundKeys := Vector Byte 192

/-- A host bus address: exactly 13 bits (R62), so no address lies outside the space and none aliases. -/
abbrev BusAddr := BitVec 13

/-- `BW`, the block width in bytes (R7). -/
abbrev blockBytes : Nat := 24

/-- `NR`, the number of cipher rounds (R7). -/
abbrev numRounds : Nat := 8

end Sys2Proof
end

