-- ==== Sys2Proof/Syntax.lean ====
section
/-! DEFINITION. The commands of the unit: one constructor per row of spec/opcode_table.json
(spec/30_encoding.md R93). -/

namespace Sys2Proof

/-- A command. The only immediate of any command is the 4-bit repeat count of RF.ADV and RF.REV (R92);
every other operand is a register. The count is kept as the four bits the word holds, legal or not,
because it is the command's own rule that rejects a bad one (R140, R141). -/
inductive Instr where
  /-- NOP (R270) -/
  | nop
  /-- RF.ADV n (R140) -/
  | rfAdv (cnt : BitVec 4)
  /-- RF.REV n (R141) -/
  | rfRev (cnt : BitVec 4)
  /-- TBLCHK (R271) -/
  | tblchk
  /-- KEYEXP (R180) -/
  | keyexp
  /-- KEYCLR (R181) -/
  | keyclr
  /-- ECB.ENC (R225) -/
  | ecbEnc
  /-- ECB.DEC (R226) -/
  | ecbDec
  /-- CBC.ENC (R230) -/
  | cbcEnc
  /-- CBC.DEC (R235) -/
  | cbcDec
  /-- OFB.XCRYPT (R240) -/
  | ofbXcrypt
  /-- CTR.XCRYPT (R250) -/
  | ctrXcrypt
deriving DecidableEq, Repr

end Sys2Proof
end

