-- ==== Sys2Proof/WellFormed.lean ====
section
/-! DEFINITION. Which commands are legal (spec/30_encoding.md R92, R94): the count of RF.ADV and RF.REV is
1..8; the other commands have no operand to check. -/

namespace Sys2Proof

/-- The legal repeat counts, 1..8 (R92; R7 `MAX_RF_COUNT`). -/
def cntOk (cnt : BitVec 4) : Bool := decide (1 ≤ cnt.toNat ∧ cnt.toNat ≤ 8)

/-- A command as R94 allows it. -/
def Instr.wellFormed : Instr → Bool
  | .nop => true
  | .rfAdv cnt => cntOk cnt
  | .rfRev cnt => cntOk cnt
  | .tblchk => true
  | .keyexp => true
  | .keyclr => true
  | .ecbEnc => true
  | .ecbDec => true
  | .cbcEnc => true
  | .cbcDec => true
  | .ofbXcrypt => true
  | .ctrXcrypt => true

end Sys2Proof
end

