-- ==== Sys2Proof/Decode.lean ====
section
/-! DEFINITION. The decoder and the encoder of command words (spec/30_encoding.md R90 to R98 and
spec/opcode_table.json). Every command is one 32-bit word (R91), so no length is ever determined. -/

namespace Sys2Proof

/-- Field OPC, bits 7:0 (R90). -/
def opcField (w : Word) : BitVec 8 := w.extractLsb' 0 8

/-- Field CNT, bits 11:8 (R90). -/
def cntField (w : Word) : BitVec 4 := w.extractLsb' 8 4

/-- Field RSV, bits 31:12 (R90). -/
def rsvField (w : Word) : BitVec 20 := w.extractLsb' 12 20

/-- `legal(w)`, transcribed from R94 on its own, without the decoder. -/
def legal (w : Word) : Bool :=
  rsvField w == 0 &&
    (([0x01, 0x02].contains (opcField w) && decide (1 ≤ (cntField w).toNat ∧ (cntField w).toNat ≤ 8)) ||
     ([0x00, 0x03, 0x10, 0x11, 0x20, 0x21, 0x22, 0x23, 0x24, 0x25].contains (opcField w) && cntField w == 0))

/-- Why a word is no row of the opcode table (R95). Each case is ERRCODE 1, ILLEGAL, at completion. -/
inductive DecodeError where
  /-- An RSV bit is set. -/
  | reservedBits (rsv : BitVec 20)
  /-- The OPC value is unassigned. -/
  | unassignedOpcode (opc : BitVec 8)
  /-- CNT is not 0 on an opcode that takes no count. -/
  | countNotZero (opc : BitVec 8) (cnt : BitVec 4)
deriving DecidableEq, Repr

/-- A command that takes no count, refused where CNT is not 0 (R92, R95). -/
def decodePlain (w : Word) (i : Instr) : Except DecodeError Instr :=
  if cntField w = 0 then .ok i else .error (.countNotZero (opcField w) (cntField w))

/-- The row of the opcode table (R93) that a command word is an instance of, by the row's mask and match.
A count of 0 or 9..15 on RF.ADV or RF.REV matches its row; the command itself rejects it (R140, R141). -/
def decode (w : Word) : Except DecodeError Instr :=
  if rsvField w = 0 then
    if opcField w = 0x00 then decodePlain w .nop
    else if opcField w = 0x01 then .ok (.rfAdv (cntField w))
    else if opcField w = 0x02 then .ok (.rfRev (cntField w))
    else if opcField w = 0x03 then decodePlain w .tblchk
    else if opcField w = 0x10 then decodePlain w .keyexp
    else if opcField w = 0x11 then decodePlain w .keyclr
    else if opcField w = 0x20 then decodePlain w .ecbEnc
    else if opcField w = 0x21 then decodePlain w .ecbDec
    else if opcField w = 0x22 then decodePlain w .cbcEnc
    else if opcField w = 0x23 then decodePlain w .cbcDec
    else if opcField w = 0x24 then decodePlain w .ofbXcrypt
    else if opcField w = 0x25 then decodePlain w .ctrXcrypt
    else .error (.unassignedOpcode (opcField w))
  else .error (.reservedBits (rsvField w))

/-- OPC of a command (R93). -/
def Instr.opc : Instr → BitVec 8
  | .nop => 0x00
  | .rfAdv _ => 0x01
  | .rfRev _ => 0x02
  | .tblchk => 0x03
  | .keyexp => 0x10
  | .keyclr => 0x11
  | .ecbEnc => 0x20
  | .ecbDec => 0x21
  | .cbcEnc => 0x22
  | .cbcDec => 0x23
  | .ofbXcrypt => 0x24
  | .ctrXcrypt => 0x25

/-- CNT of a command: 0 for every command but RF.ADV and RF.REV (R92). -/
def Instr.cnt : Instr → BitVec 4
  | .nop => 0
  | .rfAdv cnt => cnt
  | .rfRev cnt => cnt
  | .tblchk => 0
  | .keyexp => 0
  | .keyclr => 0
  | .ecbEnc => 0
  | .ecbDec => 0
  | .cbcEnc => 0
  | .cbcDec => 0
  | .ofbXcrypt => 0
  | .ctrXcrypt => 0

/-- `OPC | (cnt << 8)` (R98), RSV 0. -/
def encode (i : Instr) : Word := i.opc.setWidth 32 ||| (i.cnt.setWidth 32 <<< 8)

/-- The host's entry to the decoder: the command whose bits are `w`, `nbits` of them given. -/
def decodeTableWord (nbits w : Nat) : Option Instr :=
  match decode (BitVec.ofNat 32 (w % 2 ^ nbits)) with
  | .ok i => some i
  | .error _ => none

end Sys2Proof
end

