-- ==== Sys2Proof/Machine/Codec.lean ====
section
/-! DEFINITION. The little-endian word/byte codec (spec/40_round_function.md R120 to R122, spec/00_scope.md
R12) and the rotation of R11. The register fields (spec/20_memory.md R70) use the same codec. -/

namespace Sys2Proof.Machine

/-- `rotl32(x, n)`, the amount taken mod 32 (R11). -/
def rotl32 (x : Word) (n : Nat) : Word := x.rotateLeft (n % 32)

/-- `rotr32(x, n) = rotl32(x, (32 - (n mod 32)) mod 32)` (R11). -/
def rotr32 (x : Word) (n : Nat) : Word := rotl32 x ((32 - n % 32) % 32)

/-- `load32le` of four bytes at increasing offsets (R120). -/
def load32le (b0 b1 b2 b3 : Byte) : Word :=
  b0.setWidth 32 ||| (b1.setWidth 32 <<< 8) ||| (b2.setWidth 32 <<< 16) ||| (b3.setWidth 32 <<< 24)

/-- Byte k of a stored word, `v[8k+7:8k]` (R120, `store32le`). -/
def byteOf (v : Word) (k : Nat) : Byte := v.extractLsb' (8 * k) 8

/-- `store32le` as a byte string. -/
def wordBytes (v : Word) : Vector Byte 4 := Vector.ofFn fun k => byteOf v k

/-- `words(S)`, `v_i = load32le(S, 4i)` (R121). -/
def wordsOfBlock (S : Block) : Words6 :=
  Vector.ofFn fun i => load32le S[4 * i.val] S[4 * i.val + 1] S[4 * i.val + 2] S[4 * i.val + 3]

/-- `bytes(v_0, ..., v_5)` (R122): byte j is byte `j mod 4` of word `j div 4` (R121). -/
def blockOfWords (v : Words6) : Block := Vector.ofFn fun j => byteOf v[j.val / 4] (j.val % 4)

/-- The eight words of a key state (R160). -/
def wordsOfKey (k : KeyState) : Words8 :=
  Vector.ofFn fun i => load32le k[4 * i.val] k[4 * i.val + 1] k[4 * i.val + 2] k[4 * i.val + 3]

/-- The bytes of eight words (R163, R32): byte `4n+k` is bits `8k+7:8k` of word n. -/
def keyOfWords (u : Words8) : KeyState := Vector.ofFn fun j => byteOf u[j.val / 4] (j.val % 4)

/-- The twelve bytes of three nonce words (R34). -/
def nonceOfWords (w : Vector Word 3) : Vector Byte 12 := Vector.ofFn fun j => byteOf w[j.val / 4] (j.val % 4)

/-- Bytewise exclusive or of two blocks (R11). -/
def xorBlock (a b : Block) : Block := Vector.ofFn fun j => a[j] ^^^ b[j]

end Sys2Proof.Machine
end

