-- ==== Sys2Proof/Config.lean ====
section
/-! DEFINITION. What a unit instance fixes (spec/00_scope.md R7, R8, R17) and the values the spec leaves
free (spec/93_implementation_defined.md I1, I2, I3). Every field is an argument of the model; the machine
runs at ONE constant `Config.params` that has no body, so that no proof can see any of them. -/

namespace Sys2Proof

/-- The open parameters of R8, `BUF_BYTES` of R7, and the free values of I1 to I3. The ranges that R8 and
R7 state hold by construction, and every value in range can be written: an odd multiplier is `2k + 1` for
one 7-bit `k`, a rotation amount is below 32, and `BUF_BYTES` is `24 (k + 1)` for one `k` below 170.
The source's word that the `ROT_R` are distinct is not imposed (92_eei_decisions.md D29: "recorded, not
required by any rule"), which only allows more units. -/
structure Params where
  /-- `ROT_R[i]`, in 0..31 (R8, D29). -/
  rotR : Fin 6 → Fin 32
  /-- `MUL[j]` without its lowest bit, which is 1 because every multiplier is odd (R8). -/
  mulHigh : Fin 24 → BitVec 7
  /-- `KS_S[i]`, in 0..31 (R8, D29). -/
  ksS : Fin 8 → Fin 32
  /-- `WKG_H`, a function of the byte's index and value only (R8, R161). -/
  wkgH : Fin 32 → Byte → Byte
  /-- `KO_POS`, which byte of each group of four is replaced (R8, R162). -/
  koPos : Fin 4
  /-- `KO_F`, of the group index and the group's four bytes (R8, R162). -/
  koF : Fin 8 → Byte → Byte → Byte → Byte → Byte
  /-- `CTR_PREFIX[0..3]` (R8, R245). -/
  ctrPrefix : Fin 4 → Byte
  /-- `BUF_BYTES / 24 - 1` (R7: a multiple of 24 from 24 to 4080). -/
  bufBlocks : Fin 170
  /-- FREE VALUE (I1, I2, R61): the byte that BUF holds at an offset after the reset numbered by the first
  argument, until the byte is written. Log entry 1. -/
  bufDraw : Nat → Nat → Byte
  /-- FREE VALUE (I3, R350): what the bus returns to the n-th read made while `rst_n` is low. Log entry 2. -/
  resetReadData : Nat → Word
deriving Inhabited

/-- `MUL[j]`, an odd byte (R8). -/
def Params.mul (P : Params) (j : Fin 24) : Byte := P.mulHigh j ++ 1#1

/-- `BUF_BYTES` (R7, R60). -/
def Params.bufBytes (P : Params) : Nat := blockBytes * (P.bufBlocks.val + 1)

/-- The parameters of the unit that the machine describes. It has no body: a theorem about the machine holds
for every unit that conforms to R8 (R17). Test profile TP1 is not hard-wired (R9, I17). -/
opaque Config.params : Params

end Sys2Proof
end

