-- ==== Sys2Proof/Machine/State.lean ====
section
/-! DEFINITION. The state of the unit as plain data (spec/10_state.md R20 to R43, spec/20_memory.md R60,
R81), the events its surroundings may present (spec/00_scope.md R16), and the state after reset (R43, R350). -/

namespace Sys2Proof.Machine

/-- Why a step stops. There is no such case: every word, address and operand has a defined effect (R68, R95,
R302, R356; R306 "No trap entry"), so this type has no constructor and a fault can never be reported. Safe. -/
inductive Fault where
deriving DecidableEq, Repr

/-- Why a step has no meaning. -/
inductive Refusal where
  /-- Raised by `exec` for an instruction whose meaning is not written yet; no arm of this model raises it.
  Safe: the machine stops where the hardware goes on. -/
  | notModelled (mnemonic : String)
deriving DecidableEq, Repr

/-- One turn of one of the agents of R16, or an edge of the reset pin of R81. -/
inductive Event where
  /-- The host reads the word at a bus address (R64). -/
  | read (a : BusAddr)
  /-- The host writes a word at a bus address (R64). -/
  | write (a : BusAddr) (d : Word)
  /-- The unit takes its turn: the completion step, if it is enabled (R300). -/
  | unit
  /-- `rst_n` goes low (R350). -/
  | rstAssert
  /-- `rst_n` goes high (R350). -/
  | rstRelease
deriving DecidableEq, Repr

/-- BUF: its bytes by offset, in canonical form (see `Memory.wf`). An offset that is not listed reads as the
free value drawn at the last reset (R61; log entry 1). -/
abbrev Memory := List Host.Cell

/-- The whole state. The first group is the register map of R22, the second the internal state of R38 and
R39 and the buffer memory of R60; the last group is the model's: the reset pin and the read-data port of
R81, the turns still to be taken, and the two counters that number the free draws. -/
structure State where
  /-- CMD, the last accepted word (R23). -/
  cmd : Word
  /-- STATUS.BUSY: a command is pending (R24). -/
  busy : Bool
  /-- STATUS.DONE (R24). -/
  done : Bool
  /-- STATUS.ERR (R24). -/
  err : Bool
  /-- STATUS.ACCERR (R24, R304). -/
  accErr : Bool
  /-- STATUS.ERRCODE, bits 11:8 (R24, R302). -/
  errCode : BitVec 4
  /-- CTRL.IE (R25). -/
  ie : Bool
  /-- BUF_ADDR (R29). -/
  bufAddr : Word
  /-- LEN (R30). -/
  len : Word
  /-- CTR_LO (R31). -/
  ctrLo : Word
  /-- CTR_HI (R31). -/
  ctrHi : Word
  /-- KEY0..KEY7, write-only (R32). -/
  key : Vector Word 8
  /-- IV0..IV5 (R33). -/
  iv : Vector Word 6
  /-- NONCE0..NONCE2 (R34). -/
  nonce : Vector Word 3
  /-- CTR_OUT_LO (R35). -/
  ctrOutLo : Word
  /-- CTR_OUT_HI (R35). -/
  ctrOutHi : Word
  /-- CHAIN_OUT0..CHAIN_OUT5 (R36). -/
  chainOut : Vector Word 6
  /-- RK[0..191], the round-key store that no address maps (R38). -/
  rk : RoundKeys
  /-- KEYED, read as STATUS.KEYED (R39). -/
  keyed : Bool
  /-- BUF (R60, R61). -/
  buf : Memory
  /-- The pin `rst_n` is low: the unit is held in reset (R81, R350). -/
  rstLow : Bool
  /-- The port `rdata`: the word the last transaction returned, if it was a read (R64, R81). -/
  rdata : Option Word
  /-- The turns still to be taken, the next one first: one interleaving of the agents of R16. When none is
  left, only the unit's enabled step is taken (weak fairness, R16). The model's own field. -/
  events : List Event
  /-- How many resets have happened: it numbers the draw of BUF's contents. The model's own field. -/
  bufEpoch : Nat
  /-- How many reads were made while in reset: it numbers their read data. The model's own field. -/
  readDraws : Nat
deriving DecidableEq, Repr

/-- The machine right after reset, `rst_n` high again: every register, RK and KEYED as R43 lists them, no
pending command, BUF unspecified (nothing listed, so that every byte is the draw of reset number 0). -/
def State.reset : State where
  cmd := 0
  busy := false
  done := false
  err := false
  accErr := false
  errCode := 0
  ie := false
  bufAddr := 0
  len := 0
  ctrLo := 0
  ctrHi := 0
  key := Vector.replicate 8 0
  iv := Vector.replicate 6 0
  nonce := Vector.replicate 3 0
  ctrOutLo := 0
  ctrOutHi := 0
  chainOut := Vector.replicate 6 0
  rk := Vector.replicate 192 0
  keyed := false
  buf := []
  rstLow := false
  rdata := none
  events := []
  bufEpoch := 0
  readDraws := 0

end Sys2Proof.Machine
end

