-- ==== Sys2Proof/Machine/Ops.lean ====
section
/-! DEFINITION. The named operations over the state: BUF's bytes, MemRead and MemWrite
(spec/20_memory.md R60 to R63), acceptance (spec/10_state.md R23), completion with or without a rejection
(spec/60_exceptions.md R300, R303), a bus refusal (R304) and reset (spec/70_reset_and_hazards.md R350). -/

namespace Sys2Proof.Machine

/-- The byte at an offset: the listed one, else what an unlisted offset reads as. -/
def Memory.read (unlisted : Nat → Byte) : Memory → Nat → Byte
  | [], a => unlisted a
  | c :: m, a => if c.1 = a then c.2 else Memory.read unlisted m a

/-- Drops what is listed at an offset. -/
def Memory.erase (m : Memory) (a : Nat) : Memory := m.filter fun c => c.1 != a

/-- Lists a byte in its place by address. -/
def Memory.insert (a : Nat) (b : Byte) : Memory → Memory
  | [] => [(a, b)]
  | c :: m => if a < c.1 then (a, b) :: c :: m else c :: Memory.insert a b m

/-- Writes one byte. Writing what an unlisted offset reads as removes the entry, so that equal contents are
equal data. -/
def Memory.write (unlisted : Nat → Byte) (m : Memory) (a : Nat) (b : Byte) : Memory :=
  if b = unlisted a then m.erase a else Memory.insert a b (m.erase a)

/-- Writes a byte string at increasing offsets (R63). -/
def Memory.writeList (unlisted : Nat → Byte) : Memory → Nat → List Byte → Memory
  | m, _, [] => m
  | m, a, b :: bs => Memory.writeList unlisted (Memory.write unlisted m a b) (a + 1) bs

/-- `MemRead(a, n)` (R63). -/
def Memory.readN (unlisted : Nat → Byte) (m : Memory) (a n : Nat) : Vector Byte n :=
  Vector.ofFn fun k => Memory.read unlisted m (a + k.val)

/-- `MemWrite(a, n, v)` (R63). -/
def Memory.writeN {n : Nat} (unlisted : Nat → Byte) (m : Memory) (a : Nat) (v : Vector Byte n) : Memory :=
  Memory.writeList unlisted m a v.toList

/-- The canonical form: addresses strictly rising, and no entry equal to what an unlisted offset reads as. -/
abbrev Memory.wf (unlisted : Nat → Byte) (m : Memory) : Prop :=
  m.Pairwise (fun c d => c.1 < d.1) ∧ ∀ c ∈ m, c.2 ≠ unlisted c.1

/-- What an offset of BUF that is not listed reads as: the draw of the last reset (R61, I1). -/
def State.unlisted (P : Params) (s : State) : Nat → Byte := P.bufDraw s.bufEpoch

/-- `BUF[a]` (R60). -/
def State.byteAt (P : Params) (s : State) (a : Nat) : Byte := Memory.read (s.unlisted P) s.buf a

/-- `MemRead(a, n)` on the state (R63). -/
def State.memRead (P : Params) (s : State) (a n : Nat) : Vector Byte n := Memory.readN (s.unlisted P) s.buf a n

/-- `MemWrite(a, n, v)` on the state (R63). -/
def State.memWrite {n : Nat} (P : Params) (s : State) (a : Nat) (v : Vector Byte n) : State :=
  { s with buf := Memory.writeN (s.unlisted P) s.buf a v }

/-- Acceptance of a command word (R23): every 32-bit value is accepted, and nothing is decoded yet. -/
def State.accept (w : Word) (s : State) : State :=
  { s with cmd := w, busy := true, done := false, err := false, errCode := 0 }

/-- The error codes that a command can raise (R302). -/
inductive RejectCode where
  /-- The word is not legal (R94). -/
  | illegal
  /-- LEN is not a multiple of 24. -/
  | length
  /-- BUF_ADDR is not a multiple of 4, or the region does not fit in BUF. -/
  | range
  /-- A multiplier and its table inverse do not multiply to 1. -/
  | table
deriving DecidableEq, Repr

/-- The number of an error code (R302). -/
def RejectCode.code : RejectCode → BitVec 4
  | .illegal => 1
  | .length => 2
  | .range => 3
  | .table => 4

/-- Completion without an error (R300). -/
def State.succeed (s : State) : State := { s with busy := false, done := true }

/-- Completion of a rejected command: this is the unit's whole exception entry. The code goes to
STATUS.ERRCODE, and nothing but STATUS changes (R300, R303; R306: no handler, vector or saved state). Its
"return" is the clearing of the report, by `State.writeStatus` or `State.accept` (R307). -/
def State.reject (c : RejectCode) (s : State) : State :=
  { s with err := true, errCode := c.code, busy := false, done := true }

/-- The completion step around what a command does to the state, or its error code (R300). -/
def State.complete (s : State) (r : Except RejectCode State) : State :=
  match r with
  | .ok t => t.succeed
  | .error c => s.reject c

/-- A refused bus access (R304): ACCERR is set, and nothing else changes. -/
def State.refuse (s : State) : State := { s with accErr := true }

/-- `rst_n` goes low (R350): every register, RK and KEYED at the reset value, the pending command abandoned,
and BUF drawn anew. The turns still to be taken belong to the surroundings and stay. -/
def State.assertReset (s : State) : State :=
  { State.reset with
    rstLow := true, events := s.events, bufEpoch := s.bufEpoch + 1, readDraws := s.readDraws }

/-- `rst_n` goes high: the unit leaves reset with the values it held (R350). -/
def State.releaseReset (s : State) : State := { s with rstLow := false }

end Sys2Proof.Machine
end

