-- ==== Sys2Proof/Machine/Flags.lean ====
section
/-! DEFINITION. The unit's only flags, the fields of STATUS (spec/10_state.md R24, R26), the word that reads
them, the write that clears them, and the interrupt output (spec/60_exceptions.md R310). -/

namespace Sys2Proof.Machine

/-- One flag at its bit of a status word. -/
def flagBit (b : Bool) (n : Nat) : Word := (BitVec.ofBool b).setWidth 32 <<< n

/-- The word a read of STATUS returns (R24): BUSY 0, DONE 1, ERR 2, ACCERR 3, KEYED 4, ERRCODE 11:8; bits
7:5 and 31:12 read 0. -/
def State.statusWord (s : State) : Word :=
  flagBit s.busy 0 ||| flagBit s.done 1 ||| flagBit s.err 2 ||| flagBit s.accErr 3 ||| flagBit s.keyed 4
    ||| (s.errCode.setWidth 32 <<< 8)

/-- A write of `d` to STATUS (R24): the W1C bits 1, 2 and 3; bit 2 clears ERRCODE with ERR. -/
def State.writeStatus (d : Word) (s : State) : State :=
  { s with
    done := s.done && !d.getLsbD 1
    err := s.err && !d.getLsbD 2
    errCode := if d.getLsbD 2 then 0 else s.errCode
    accErr := s.accErr && !d.getLsbD 3 }

/-- The word a read of CTRL returns: IE in bit 0, the reserved bits 0 (R25). -/
def State.ctrlWord (s : State) : Word := flagBit s.ie 0

/-- A write of `d` to CTRL: only bit 0 is kept (R25). -/
def State.writeCtrl (d : Word) (s : State) : State := { s with ie := d.getLsbD 0 }

/-- The level interrupt output `irq = CTRL.IE AND STATUS.DONE` (R310). -/
def State.irq (s : State) : Bool := s.ie && s.done

end Sys2Proof.Machine
end

