-- ==== Sys2Proof/Machine/Bus.lean ====
section
/-! DEFINITION. The host bus: the address map (spec/10_state.md R22, R37), and one read or write of a word
(spec/20_memory.md R62 to R70). -/

namespace Sys2Proof.Machine

/-- What an aligned bus address names (R22). -/
inductive Target where
  /-- 0x000 -/
  | cmd
  /-- 0x004 -/
  | status
  /-- 0x008 -/
  | ctrl
  /-- 0x00C -/
  | id
  /-- 0x010 -/
  | bufAddr
  /-- 0x014 -/
  | len
  /-- 0x018 -/
  | ctrLo
  /-- 0x01C -/
  | ctrHi
  /-- 0x020 + 4n -/
  | key (n : Fin 8)
  /-- 0x040 + 4n -/
  | iv (n : Fin 6)
  /-- 0x058 + 4n -/
  | nonce (n : Fin 3)
  /-- 0x064 -/
  | ctrOutLo
  /-- 0x068 -/
  | ctrOutHi
  /-- 0x070 + 4n -/
  | chainOut (n : Fin 6)
  /-- 0x088 -/
  | param
  /-- 0x1000 + o: the word at byte offset o of BUF -/
  | buf (o : Nat)
  /-- A reserved address (R37) -/
  | reserved
deriving DecidableEq, Repr

/-- The map of R22, by the word's byte offset. -/
def targetOf (P : Params) (o : Nat) : Target :=
  if o = 0x000 then .cmd
  else if o = 0x004 then .status
  else if o = 0x008 then .ctrl
  else if o = 0x00C then .id
  else if o = 0x010 then .bufAddr
  else if o = 0x014 then .len
  else if o = 0x018 then .ctrLo
  else if o = 0x01C then .ctrHi
  else if h : 0x020 ≤ o ∧ o < 0x040 then .key ⟨(o - 0x020) / 4, by omega⟩
  else if h : 0x040 ≤ o ∧ o < 0x058 then .iv ⟨(o - 0x040) / 4, by omega⟩
  else if h : 0x058 ≤ o ∧ o < 0x064 then .nonce ⟨(o - 0x058) / 4, by omega⟩
  else if o = 0x064 then .ctrOutLo
  else if o = 0x068 then .ctrOutHi
  else if h : 0x070 ≤ o ∧ o < 0x088 then .chainOut ⟨(o - 0x070) / 4, by omega⟩
  else if o = 0x088 then .param
  else if 0x1000 ≤ o ∧ o - 0x1000 + 4 ≤ P.bufBytes then .buf (o - 0x1000)
  else .reserved

/-- `a[1:0] = 0` (R65). -/
def aligned (a : BusAddr) : Bool := a.extractLsb' 0 2 == 0

/-- May be read while BUSY = 1 (R67). -/
def Target.readableBusy : Target → Bool
  | .cmd | .status | .ctrl | .id | .param => true
  | _ => false

/-- May be written while BUSY = 1 (R67). -/
def Target.writableBusy : Target → Bool
  | .status | .ctrl | .id | .param => true
  | _ => false

/-- ID, "OP4" and a zero byte (R27). -/
def idWord : Word := 0x0034504F

/-- PARAM: BW in bits 7:0, NR in bits 15:8, BUF_BYTES in bits 31:16 (R28). -/
def paramWord (P : Params) : Word :=
  BitVec.ofNat 32 blockBytes ||| (BitVec.ofNat 32 numRounds <<< 8) ||| (BitVec.ofNat 32 P.bufBytes <<< 16)

/-- What an accepted read of a target returns (R23 to R36, R66). KEY0..KEY7 are write-only and read 0 (R32);
RK is no target at all (R38). -/
def State.readTarget (P : Params) (s : State) : Target → Word
  | .cmd => s.cmd
  | .status => s.statusWord
  | .ctrl => s.ctrlWord
  | .id => idWord
  | .bufAddr => s.bufAddr
  | .len => s.len
  | .ctrLo => s.ctrLo
  | .ctrHi => s.ctrHi
  | .key _ => 0
  | .iv n => s.iv[n]
  | .nonce n => s.nonce[n]
  | .ctrOutLo => s.ctrOutLo
  | .ctrOutHi => s.ctrOutHi
  | .chainOut n => s.chainOut[n]
  | .param => paramWord P
  | .buf o => load32le (s.byteAt P o) (s.byteAt P (o + 1)) (s.byteAt P (o + 2)) (s.byteAt P (o + 3))
  | .reserved => 0

/-- What an accepted write of `d` to a target does (R23 to R36, R66). Writes to ID, PARAM, CTR_OUT and
CHAIN_OUT are ignored (R27, R28, R35, R36). -/
def State.writeTarget (P : Params) (d : Word) (s : State) : Target → State
  | .cmd => s.accept d
  | .status => s.writeStatus d
  | .ctrl => s.writeCtrl d
  | .id => s
  | .bufAddr => { s with bufAddr := d }
  | .len => { s with len := d }
  | .ctrLo => { s with ctrLo := d }
  | .ctrHi => { s with ctrHi := d }
  | .key n => { s with key := s.key.set n d }
  | .iv n => { s with iv := s.iv.set n d }
  | .nonce n => { s with nonce := s.nonce.set n d }
  | .ctrOutLo => s
  | .ctrOutHi => s
  | .chainOut _ => s
  | .param => s
  | .buf o => s.memWrite P o (wordBytes d)
  | .reserved => s

/-- The read is refused: misaligned (R65), not allowed while busy (R67), or reserved (R37). -/
def State.readRefused (P : Params) (s : State) (a : BusAddr) : Bool :=
  let t := targetOf P a.toNat
  !aligned a || (s.busy && !t.readableBusy) || t == .reserved

/-- The write is refused, in the same three cases (R304). -/
def State.writeRefused (P : Params) (s : State) (a : BusAddr) : Bool :=
  let t := targetOf P a.toNat
  !aligned a || (s.busy && !t.writableBusy) || t == .reserved

/-- One host read (R64, R68): the word returned and the state after. A refused read returns 0 and sets
ACCERR; no other read has a side effect (R69). -/
def State.hostRead (P : Params) (a : BusAddr) (s : State) : Word × State :=
  if s.readRefused P a then (0, s.refuse) else (s.readTarget P (targetOf P a.toNat), s)

/-- One host write (R64, R68): a refused write only sets ACCERR. -/
def State.hostWrite (P : Params) (a : BusAddr) (d : Word) (s : State) : State :=
  if s.writeRefused P a then s.refuse else s.writeTarget P d (targetOf P a.toNat)

/-- A read transaction with its answer on `rdata`. While `rst_n` is low it has no effect and returns a free
value (R350, I3). -/
def State.readTransaction (P : Params) (a : BusAddr) (s : State) : State :=
  if s.rstLow then { s with rdata := some (P.resetReadData s.readDraws), readDraws := s.readDraws + 1 }
  else { (s.hostRead P a).2 with rdata := some (s.hostRead P a).1 }

/-- A write transaction; it returns no data, and has no effect while `rst_n` is low (R350). -/
def State.writeTransaction (P : Params) (a : BusAddr) (d : Word) (s : State) : State :=
  if s.rstLow then { s with rdata := none } else { s.hostWrite P a d with rdata := none }

end Sys2Proof.Machine
end

