-- ==== Sys2Proof/Machine/RoundFunction.lean ====
section
/-! DEFINITION. The round function, forward and inverse, and its two layers
(spec/40_round_function.md R123 to R131), as pure functions of the parameters and a block. -/

namespace Sys2Proof.Machine

/-- Step i of the forward diffusion, in place (R123). Indices are mod 6. -/
def diffuseStep (P : Params) (v : Words6) (i : Fin 6) : Words6 :=
  v.set i (rotl32 v[i] (P.rotR i) + v[i + 1] + v[i + 2] + v[i + 3])

/-- `diffuse`: the steps strictly in ascending order, each reading the words already updated (R123). -/
def diffuse (P : Params) (v : Words6) : Words6 := [0, 1, 2, 3, 4, 5].foldl (diffuseStep P) v

/-- Step i of the inverse diffusion, in place (R124). -/
def undiffuseStep (P : Params) (v : Words6) (i : Fin 6) : Words6 :=
  v.set i (rotr32 (v[i] - v[i + 1] - v[i + 2] - v[i + 3]) (P.rotR i))

/-- `undiffuse`: the steps strictly in descending order (R124). -/
def undiffuse (P : Params) (v : Words6) : Words6 := [5, 4, 3, 2, 1, 0].foldl (undiffuseStep P) v

/-- The inverse of an odd byte mod 256, by two Newton steps from the byte itself (a modular-inverse
circuit, R127; `mul_inv256` in Laws/Commands.lean says it is the inverse). -/
def inv256 (m : Byte) : Byte :=
  let x := m * (2 - m * m)
  x * (2 - m * x)

/-- `MINV[j]`, derived from `MUL[j]` (R8, R127). -/
def minv (P : Params) (j : Fin 24) : Byte := inv256 (P.mul j)

/-- `confuse` (R126): each byte times its position's multiplier, mod 256. -/
def confuse (P : Params) (S : Block) : Block := Vector.ofFn fun j => S[j] * P.mul j

/-- `unconfuse` (R128). -/
def unconfuse (P : Params) (S : Block) : Block := Vector.ofFn fun j => S[j] * minv P j

/-- `advance`: diffusion, then confusion (R129). -/
def advance (P : Params) (S : Block) : Block := confuse P (blockOfWords (diffuse P (wordsOfBlock S)))

/-- `reverse`: confusion undone, then diffusion (R130). -/
def reverse (P : Params) (S : Block) : Block := blockOfWords (undiffuse P (wordsOfBlock (unconfuse P S)))

/-- The test of TBLCHK: every `MUL[j] * MINV[j]` is 1 mod 256 (R271). -/
def tablesMatch (P : Params) : Bool := (List.finRange 24).all fun j => P.mul j * minv P j == 1

end Sys2Proof.Machine
end

