-- ==== Sys2Proof/Machine/Control.lean ====
section
/-! DEFINITION. The control commands NOP and TBLCHK (spec/44_control.md R270, R271). -/

namespace Sys2Proof.Machine

/-- What NOP does: nothing (R270). -/
def nopCommand (s : State) : Except RejectCode State := .ok s

/-- NOP (R270). -/
def execNop (s : State) : Host.Outcome State Fault Refusal := .next (s.complete (nopCommand s))

/-- What TBLCHK does: the tables are compared, and nothing is written (R271). -/
def tblchkCommand (P : Params) (s : State) : Except RejectCode State :=
  if tablesMatch P = true then .ok s else .error .table

/-- TBLCHK (R271). -/
def execTblchk (s : State) : Host.Outcome State Fault Refusal := .next (s.complete (tblchkCommand Config.params s))

end Sys2Proof.Machine
end

