-- ==== Sys2Proof/Machine/KeySchedule.lean ====
section
/-! DEFINITION. The key-schedule transformation T and the expansion of a master key
(spec/41_key_schedule.md R160 to R165). -/

namespace Sys2Proof.Machine

/-- The weak-key guard `WKG` (R161). -/
def wkg (P : Params) (k : KeyState) : KeyState := Vector.ofFn fun j => k[j] ^^^ P.wkgH j k[j]

/-- Key obfuscation, sub-step 1 `KO1` (R162): byte `KO_POS` of each group of four is replaced. -/
def ko1 (P : Params) (k : KeyState) : KeyState :=
  Vector.ofFn fun j =>
    if j.val % 4 = P.koPos.val then
      P.koF ⟨j.val / 4, by omega⟩ k[4 * (j.val / 4)] k[4 * (j.val / 4) + 1] k[4 * (j.val / 4) + 2]
        k[4 * (j.val / 4) + 3]
    else k[j]

/-- The word mixing of sub-step 2 (R163): all words from the same old values, indices mod 8. -/
def mixWords (P : Params) (u : Words8) : Words8 :=
  Vector.ofFn fun i => u[i] + rotl32 ((u[i - 1] ^^^ u[i]) + u[i - 2]) (P.ksS i)

/-- Key obfuscation, sub-step 2 `KO2` (R163). -/
def ko2 (P : Params) (k : KeyState) : KeyState := keyOfWords (mixWords P (wordsOfKey k))

/-- The transformation `T` (R164). -/
def transform (P : Params) (k : KeyState) : KeyState := ko2 P (ko1 P (wkg P k))

/-- `RK[32j .. 32j+31] <- k` (R165). -/
def setSnapshot (rk : RoundKeys) (j : Fin 6) (k : KeyState) : RoundKeys :=
  Vector.ofFn fun i => if i.val / 32 = j.val then k[i.val % 32]'(by omega) else rk[i]

/-- One expansion step: `NR` transformations of the running key, then the snapshot (R165). -/
def expandStep (P : Params) (r : KeyState × RoundKeys) (j : Fin 6) : KeyState × RoundKeys :=
  let k := (transform P)^[numRounds] r.1
  (k, setSnapshot r.2 j k)

/-- `expand(K)` (R165): `NK = 6` expansion steps. -/
def expand (P : Params) (K : KeyState) : RoundKeys :=
  ([0, 1, 2, 3, 4, 5].foldl (expandStep P) (K, Vector.replicate 192 0)).2

end Sys2Proof.Machine
end

