-- ==== Sys2Proof/Machine/Operands.lean ====
section
/-! DEFINITION. The operands that commands take from registers (spec/30_encoding.md R92, spec/10_state.md R29 to
R34), and the operand checks of spec/60_exceptions.md R302. -/

namespace Sys2Proof.Machine

/-- The master key held in KEY0..KEY7 (R32, R180). -/
def State.masterKey (s : State) : KeyState := keyOfWords s.key

/-- The 24 bytes of IV0..IV5 (R33). -/
def State.ivBlock (s : State) : Block := blockOfWords s.iv

/-- The 12 bytes of NONCE0..NONCE2 (R34). -/
def State.nonceBytes (s : State) : Vector Byte 12 := nonceOfWords s.nonce

/-- `CTR = CTR_HI || CTR_LO` (R31). -/
def State.counter (s : State) : BitVec 64 := s.ctrHi ++ s.ctrLo

/-- The RANGE check passes for a region of n bytes at `BUF_ADDR`, in unbounded arithmetic (R302). -/
def State.inRange (P : Params) (s : State) (n : Nat) : Bool :=
  decide (s.bufAddr.toNat % 4 = 0 ∧ s.bufAddr.toNat + n ≤ P.bufBytes)

/-- The prologue of a mode command after the legality check (R220): LENGTH before RANGE; the number of
blocks if both pass. -/
def State.regionBlocks (P : Params) (s : State) : Except RejectCode Nat :=
  if s.len.toNat % blockBytes ≠ 0 then .error .length
  else if s.inRange P s.len.toNat = false then .error .range
  else .ok (s.len.toNat / blockBytes)

/-- The counter block `ctrblk(N, c)` (R245): prefix, nonce, then the counter in little-endian order. -/
def ctrBlock (P : Params) (N : Vector Byte 12) (c : BitVec 64) : Block :=
  Vector.ofFn fun j =>
    if h : j.val < 4 then P.ctrPrefix ⟨j.val, h⟩
    else if h' : j.val < 16 then N[j.val - 4]
    else c.extractLsb' (8 * (j.val - 16)) 8

end Sys2Proof.Machine
end

