-- ==== Sys2Proof/Machine/Key.lean ====
section
/-! DEFINITION. The key commands KEYEXP and KEYCLR (spec/41_key_schedule.md R180, R181). -/

namespace Sys2Proof.Machine

/-- `KEY0..KEY7 <- 0` (R32, R180, R181). -/
def State.clearKey (s : State) : State := { s with key := Vector.replicate 8 0 }

/-- RK and KEYED together (R38, R39). -/
def State.setContext (rk : RoundKeys) (keyed : Bool) (s : State) : State := { s with rk := rk, keyed := keyed }

/-- What KEYEXP does: it cannot fail on any key value (R180). -/
def keyexpCommand (P : Params) (s : State) : Except RejectCode State :=
  .ok (s.setContext (expand P s.masterKey) true).clearKey

/-- KEYEXP (R180). -/
def execKeyexp (s : State) : Host.Outcome State Fault Refusal := .next (s.complete (keyexpCommand Config.params s))

/-- What KEYCLR does: back to the placeholder context (R181). -/
def keyclrCommand (s : State) : Except RejectCode State :=
  .ok (s.setContext (Vector.replicate 192 0) false).clearKey

/-- KEYCLR (R181). -/
def execKeyclr (s : State) : Host.Outcome State Fault Refusal := .next (s.complete (keyclrCommand s))

end Sys2Proof.Machine
end

