-- ==== Sys2Proof/Machine/BlockCipher.lean ====
section
/-! DEFINITION. The single-block cipher `E` and its inverse `D` (spec/42_block_cipher.md R200 to R202). -/

namespace Sys2Proof.Machine

/-- `chunk(r) = RK[24r .. 24r+23]` (R200). -/
def chunk (rk : RoundKeys) (r : Fin 8) : Block := Vector.ofFn fun j => rk[24 * r.val + j.val]

/-- One encryption round: `advance`, then the round-key XOR (R201). -/
def encRound (P : Params) (rk : RoundKeys) (S : Block) (r : Fin 8) : Block := xorBlock (advance P S) (chunk rk r)

/-- `E(S)`: rounds 0 to 7 (R201). -/
def encryptBlock (P : Params) (rk : RoundKeys) (S : Block) : Block :=
  [0, 1, 2, 3, 4, 5, 6, 7].foldl (encRound P rk) S

/-- One decryption round: the round-key XOR, then `reverse` (R202). -/
def decRound (P : Params) (rk : RoundKeys) (S : Block) (r : Fin 8) : Block := reverse P (xorBlock S (chunk rk r))

/-- `D(S)`: rounds 7 to 0 (R202). -/
def decryptBlock (P : Params) (rk : RoundKeys) (S : Block) : Block :=
  [7, 6, 5, 4, 3, 2, 1, 0].foldl (decRound P rk) S

end Sys2Proof.Machine
end

