-- ==== Sys2Proof/Machine/Modes.lean ====
section
/-! DEFINITION. The mode commands (spec/43_modes.md R220 to R250), each one block function with a chaining
value, run over the region by one shared loop. -/

namespace Sys2Proof.Machine

/-- The block loop of R221: for each block in ascending order, the input is read, the output is written back
to the same place, and the chaining value goes on to the next block. -/
def chainBlocks {σ : Type} (unlisted : Nat → Byte) (f : σ → Block → Block × σ) :
    Nat → Nat → σ → Memory → Memory × σ
  | 0, _, c, m => (m, c)
  | n + 1, a, c, m =>
    let r := f c (Memory.readN unlisted m a blockBytes)
    chainBlocks unlisted f n (a + blockBytes) r.2 (Memory.writeN unlisted m a r.1)

/-- A mode command: the prologue of R220, the block loop from the chaining value `c0`, and what the final
chaining value is reported in. -/
def modeCommand {σ : Type} (P : Params) (f : σ → Block → Block × σ) (c0 : σ) (report : σ → State → State)
    (s : State) : Except RejectCode State :=
  match s.regionBlocks P with
  | .error e => .error e
  | .ok nb =>
    let r := chainBlocks (s.unlisted P) f nb s.bufAddr.toNat c0 s.buf
    .ok (report r.2 { s with buf := r.1 })

/-- `CHAIN_OUT <- c` (R36). -/
def State.setChainOut (c : Block) (s : State) : State := { s with chainOut := wordsOfBlock c }

/-- `CTR_OUT <- c` (R35). -/
def State.setCtrOut (c : BitVec 64) (s : State) : State :=
  { s with ctrOutLo := c.extractLsb' 0 32, ctrOutHi := c.extractLsb' 32 32 }

/-- One block of ECB.ENC (R225); there is no chaining value. -/
def ecbEncBlock (P : Params) (rk : RoundKeys) (_ : Unit) (x : Block) : Block × Unit := (encryptBlock P rk x, ())

/-- One block of ECB.DEC (R226). -/
def ecbDecBlock (P : Params) (rk : RoundKeys) (_ : Unit) (x : Block) : Block × Unit := (decryptBlock P rk x, ())

/-- One block of CBC.ENC: the output is the next chaining value (R230). -/
def cbcEncBlock (P : Params) (rk : RoundKeys) (prev x : Block) : Block × Block :=
  let y := encryptBlock P rk (xorBlock x prev)
  (y, y)

/-- One block of CBC.DEC: the saved input is the next chaining value (R235). -/
def cbcDecBlock (P : Params) (rk : RoundKeys) (prev x : Block) : Block × Block :=
  (xorBlock (decryptBlock P rk x) prev, x)

/-- One block of OFB: the block-cipher output is the new feedback (R240). -/
def ofbBlock (P : Params) (rk : RoundKeys) (fb x : Block) : Block × Block :=
  let fb' := encryptBlock P rk fb
  (xorBlock x fb', fb')

/-- One block of CTR: the counter goes up by 1 mod 2^64 (R246, R250). -/
def ctrModeBlock (P : Params) (rk : RoundKeys) (N : Vector Byte 12) (c : BitVec 64) (x : Block) :
    Block × BitVec 64 :=
  (xorBlock x (encryptBlock P rk (ctrBlock P N c)), c + 1)

/-- What ECB.ENC does (R225). -/
def ecbEncCommand (P : Params) (s : State) : Except RejectCode State :=
  modeCommand P (ecbEncBlock P s.rk) () (fun _ t => t) s

/-- ECB.ENC (R225). -/
def execEcbEnc (s : State) : Host.Outcome State Fault Refusal := .next (s.complete (ecbEncCommand Config.params s))

/-- What ECB.DEC does (R226). -/
def ecbDecCommand (P : Params) (s : State) : Except RejectCode State :=
  modeCommand P (ecbDecBlock P s.rk) () (fun _ t => t) s

/-- ECB.DEC (R226). -/
def execEcbDec (s : State) : Host.Outcome State Fault Refusal := .next (s.complete (ecbDecCommand Config.params s))

/-- What CBC.ENC does (R230). -/
def cbcEncCommand (P : Params) (s : State) : Except RejectCode State :=
  modeCommand P (cbcEncBlock P s.rk) s.ivBlock State.setChainOut s

/-- CBC.ENC (R230). -/
def execCbcEnc (s : State) : Host.Outcome State Fault Refusal := .next (s.complete (cbcEncCommand Config.params s))

/-- What CBC.DEC does (R235). -/
def cbcDecCommand (P : Params) (s : State) : Except RejectCode State :=
  modeCommand P (cbcDecBlock P s.rk) s.ivBlock State.setChainOut s

/-- CBC.DEC (R235). -/
def execCbcDec (s : State) : Host.Outcome State Fault Refusal := .next (s.complete (cbcDecCommand Config.params s))

/-- What OFB.XCRYPT does (R240). -/
def ofbXcryptCommand (P : Params) (s : State) : Except RejectCode State :=
  modeCommand P (ofbBlock P s.rk) s.ivBlock State.setChainOut s

/-- OFB.XCRYPT (R240). -/
def execOfbXcrypt (s : State) : Host.Outcome State Fault Refusal :=
  .next (s.complete (ofbXcryptCommand Config.params s))

/-- What CTR.XCRYPT does (R250). -/
def ctrXcryptCommand (P : Params) (s : State) : Except RejectCode State :=
  modeCommand P (ctrModeBlock P s.rk s.nonceBytes) s.counter State.setCtrOut s

/-- CTR.XCRYPT (R250). -/
def execCtrXcrypt (s : State) : Host.Outcome State Fault Refusal :=
  .next (s.complete (ctrXcryptCommand Config.params s))

end Sys2Proof.Machine
end

