-- ==== Sys2Proof/Machine/Round.lean ====
section
/-! DEFINITION. The round-function commands RF.ADV and RF.REV (spec/40_round_function.md R140, R141). -/

namespace Sys2Proof.Machine

/-- A block function applied `cnt` times to the block at BUF_ADDR: ILLEGAL for a count that is not 1..8,
RANGE for a block that is not aligned or does not fit, else the block is replaced (R140, R141). -/
def blockCommand (P : Params) (f : Block → Block) (cnt : BitVec 4) (s : State) : Except RejectCode State :=
  if cntOk cnt = false then .error .illegal
  else if s.inRange P blockBytes = false then .error .range
  else .ok (s.memWrite P s.bufAddr.toNat (f^[cnt.toNat] (s.memRead P s.bufAddr.toNat blockBytes)))

/-- What RF.ADV does (R140). -/
def rfAdvCommand (P : Params) (cnt : BitVec 4) (s : State) : Except RejectCode State :=
  blockCommand P (advance P) cnt s

/-- RF.ADV (R140). -/
def execRfAdv (cnt : BitVec 4) (s : State) : Host.Outcome State Fault Refusal :=
  .next (s.complete (rfAdvCommand Config.params cnt s))

/-- What RF.REV does (R141). -/
def rfRevCommand (P : Params) (cnt : BitVec 4) (s : State) : Except RejectCode State :=
  blockCommand P (reverse P) cnt s

/-- RF.REV (R141). -/
def execRfRev (cnt : BitVec 4) (s : State) : Host.Outcome State Fault Refusal :=
  .next (s.complete (rfRevCommand Config.params cnt s))

end Sys2Proof.Machine
end

