-- ==== Sys2Proof/Machine/Dispatch.lean ====
section
/-! DEFINITION. The meaning of every command: its whole completion step (spec/60_exceptions.md R300). -/

namespace Sys2Proof.Machine

def exec (i : Instr) (s : State) : Host.Outcome State Fault Refusal :=
  match i with
  | .nop => Sys2Proof.Machine.execNop s
  | .rfAdv cnt => Sys2Proof.Machine.execRfAdv cnt s
  | .rfRev cnt => Sys2Proof.Machine.execRfRev cnt s
  | .tblchk => Sys2Proof.Machine.execTblchk s
  | .keyexp => Sys2Proof.Machine.execKeyexp s
  | .keyclr => Sys2Proof.Machine.execKeyclr s
  | .ecbEnc => Sys2Proof.Machine.execEcbEnc s
  | .ecbDec => Sys2Proof.Machine.execEcbDec s
  | .cbcEnc => Sys2Proof.Machine.execCbcEnc s
  | .cbcDec => Sys2Proof.Machine.execCbcDec s
  | .ofbXcrypt => Sys2Proof.Machine.execOfbXcrypt s
  | .ctrXcrypt => Sys2Proof.Machine.execCtrXcrypt s

end Sys2Proof.Machine
end

