-- ==== Sys2Proof/Machine/Completion.lean ====
section
/-! DEFINITION. The unit's turn (spec/60_exceptions.md R300): the word in CMD is decoded at completion
(spec/30_encoding.md R90) and performed; and the turns of the other agents (spec/00_scope.md R16). -/

namespace Sys2Proof.Machine

/-- The completion step is enabled exactly when BUSY = 1 (R16, R300), and not while held in reset (R350). -/
def State.enabled (s : State) : Bool := s.busy && !s.rstLow

/-- Completes the pending command: the word in CMD is decoded now, and a word that is no row of the opcode
table is rejected as ILLEGAL (R90, R95). -/
def completeCommand (s : State) : Host.Outcome State Fault Refusal :=
  match decode s.cmd with
  | .ok i => exec i s
  | .error _ => .next (s.reject .illegal)

/-- A turn of the unit: the completion step if it is enabled, nothing otherwise. -/
def unitTurn (s : State) : Host.Outcome State Fault Refusal := if s.enabled then completeCommand s else .next s

/-- An edge of `rst_n` to low, from high; held low, nothing changes (R350). -/
def State.pinLow (s : State) : State := if s.rstLow then s else s.assertReset

/-- One turn, as the event says. -/
def turn (P : Params) (e : Event) (s : State) : Host.Outcome State Fault Refusal :=
  match e with
  | .read a => .next (s.readTransaction P a)
  | .write a d => .next (s.writeTransaction P a d)
  | .unit => unitTurn s
  | .rstAssert => .next s.pinLow
  | .rstRelease => .next s.releaseReset

/-- The next turn: the first one waiting; if none waits, the unit's (weak fairness, R16). -/
def nextTurn (P : Params) (s : State) : Host.Outcome State Fault Refusal :=
  match s.events with
  | [] => unitTurn s
  | e :: rest => turn P e { s with events := rest }

/-- A command word put where the unit's turn finds it: accepted (R23), out of reset, and no other turn first. -/
def State.pend (w : Word) (s : State) : State := { s.accept w with events := [], rstLow := false }

end Sys2Proof.Machine
end

