-- ==== Sys2Proof/Machine/Step.lean ====
section
/-! DEFINITION. One step of the machine: one turn of one agent (spec/00_scope.md R16). -/

namespace Sys2Proof.Machine

/-- One step: the next turn in the interleaving that the state holds. -/
def step (s : State) : Host.Outcome State Fault Refusal := nextTurn Config.params s

/-- `s` with the command word `w` pending, so that the very next step runs it. -/
def State.withFetchWord (s : State) (nbits w : Nat) : State := s.pend (BitVec.ofNat 32 (w % 2 ^ nbits))

end Sys2Proof.Machine
end

