-- ==== Sys2Proof/Safety.lean ====
section
/-! DEFINITION. What holds of every state of a run (spec/10_state.md R23, R24, R38, R39, spec/20_memory.md R60,
spec/70_reset_and_hazards.md R350), in the terms that statements use, and what it is not to stop. -/

namespace Sys2Proof.Machine

/-- The error report is consistent (R24): ERRCODE is 0 while ERR is 0, and in 1..4 while ERR is 1. -/
def State.reportOk (s : State) : Prop :=
  (s.err = false → s.errCode = 0) ∧ (s.err = true → 1 ≤ s.errCode.toNat ∧ s.errCode.toNat ≤ 4)

/-- A pending command has no report of its own yet (R23). -/
def State.pendingOk (s : State) : Prop := s.busy = true → s.done = false ∧ s.err = false

/-- With KEYED = 0, RK is the all-zero placeholder (R39). -/
def State.placeholderOk (s : State) : Prop := s.keyed = false → s.rk = Vector.replicate 192 0

/-- BUF is in canonical form and lists no offset at or above BUF_BYTES (R60, R63). -/
def State.bufOk (P : Params) (s : State) : Prop :=
  Memory.wf (s.unlisted P) s.buf ∧ ∀ c ∈ s.buf, c.1 < P.bufBytes

/-- The reset values with the pin held low (R350); the read-data port, the waiting turns and the counters are
not the unit's registers. -/
def State.atResetValues (s : State) : Prop :=
  s = { State.reset with
    rstLow := s.rstLow, rdata := s.rdata, events := s.events, bufEpoch := s.bufEpoch, readDraws := s.readDraws }

/-- What every step keeps. -/
structure State.Inv (P : Params) (s : State) : Prop where
  /-- R60, R63 -/
  bufOk : s.bufOk P
  /-- R24 -/
  reportOk : s.reportOk
  /-- ERRCODE 4 is never produced on a conforming unit (93_implementation_defined.md I7). -/
  noTableError : s.errCode ≠ 4
  /-- R23 -/
  pendingOk : s.pendingOk
  /-- R39 -/
  placeholderOk : s.placeholderOk
  /-- R350 -/
  heldInReset : s.rstLow = true → s.atResetValues

/-- The step answers a next state: neither a fault nor a refusal. -/
def State.goesOn (s : State) : Prop := ∃ t, step s = .next t

/-- A region of n bytes at BUF_ADDR is aligned and fits in BUF (R302). -/
abbrev State.fits (P : Params) (s : State) (n : Nat) : Prop :=
  s.bufAddr.toNat % 4 = 0 ∧ s.bufAddr.toNat + n ≤ P.bufBytes

/-- The prologue of a mode command passes (R220). -/
abbrev State.regionOk (P : Params) (s : State) : Prop := s.len.toNat % 24 = 0 ∧ s.fits P s.len.toNat

/-- Block b of the region, at offset `a + 24b` (spec/43_modes.md, opening). -/
def State.blockAt (P : Params) (s : State) (b : Nat) : Block := s.memRead P (s.bufAddr.toNat + 24 * b) 24

/-- Every byte of BUF outside the n bytes at `a` reads in `t` as it did in `s`. -/
def State.sameOutside (P : Params) (s t : State) (a n : Nat) : Prop :=
  ∀ o, o < a ∨ a + n ≤ o → t.byteAt P o = s.byteAt P o

/-- `t` is `s` after a successful completion that wrote BUF and nothing else but STATUS (R42, R300). -/
def State.wroteBuf (s t : State) : Prop := t = { s with buf := t.buf, busy := false, done := true }

/-- The six mode commands (R93). -/
def modeCommands : List Instr := [.ecbEnc, .ecbDec, .cbcEnc, .cbcDec, .ofbXcrypt, .ctrXcrypt]

/-- OPC of a command word as a number (R90). -/
def opcNat (w : Word) : Nat := w.toNat % 256

/-- CNT of a command word as a number (R90). -/
def cntNat (w : Word) : Nat := w.toNat / 256 % 16

/-- RSV of a command word as a number (R90). -/
def rsvNat (w : Word) : Nat := w.toNat / 4096

/-- The illegal words as R95 lists them. -/
def illegalWord (w : Word) : Prop :=
  (4 ≤ opcNat w ∧ opcNat w ≤ 0x0F ∨ 0x12 ≤ opcNat w ∧ opcNat w ≤ 0x1F ∨ 0x26 ≤ opcNat w) ∨ rsvNat w ≠ 0 ∨
    ((opcNat w = 1 ∨ opcNat w = 2) ∧ (cntNat w = 0 ∨ 9 ≤ cntNat w)) ∨
    ((opcNat w ≠ 1 ∧ opcNat w ≠ 2) ∧ cntNat w ≠ 0)

end Sys2Proof.Machine
end

