-- ==== Sys2Proof/Certificates/Slice0/Obligations.lean ====
section
/-! DEFINITION. The statements for the provers: the numbered rules of spec/ as propositions about the machine. `Config.params` is the
unit's parameters, of which nothing is known; statements about the pure functions are for every `P`. -/

open Sys2Proof Sys2Proof.Machine

/-! ### Command words -/

/-- R98 and R93: words written out from the opcode map decode to their commands. -/
def Obligations.CommandWordsDecode : Prop :=
  decode 0x00000000 = .ok .nop ∧ decode 0x00000301 = .ok (.rfAdv 3) ∧ decode 0x00000802 = .ok (.rfRev 8) ∧
    decode 0x00000010 = .ok .keyexp ∧ decode 0x00000023 = .ok .cbcDec ∧ decode 0x00000025 = .ok .ctrXcrypt

/-- R90 to R93, R98: decoding undoes encoding for every well-formed command, with every count, and no two words
decode to one command (that a word with a bad count decodes to its row is the model's choice, log entry 9). -/
def Obligations.DecodeEncodeAgree : Prop :=
  (∀ i : Instr, i.wellFormed = true → decode (encode i) = .ok i) ∧
    ∀ (w : Word) (i : Instr), decode w = .ok i → encode i = w

/-- R94: the legality function, on the fields as numbers, holds of exactly the words that decode to a
well-formed command; `legal` is that function; and a word that is not legal is rejected before anything else. -/
def Obligations.LegalWordsExactly : Prop :=
  ∀ w : Word,
    ((∃ i, decode w = .ok i ∧ i.wellFormed = true) ↔
      rsvNat w = 0 ∧ ((opcNat w ∈ [0x01, 0x02] ∧ 1 ≤ cntNat w ∧ cntNat w ≤ 8) ∨
        (opcNat w ∈ [0x00, 0x03, 0x10, 0x11, 0x20, 0x21, 0x22, 0x23, 0x24, 0x25] ∧ cntNat w = 0))) ∧
    (legal w = true ↔ ∃ i, decode w = .ok i ∧ i.wellFormed = true) ∧
    ∀ s : State, s.cmd = w → legal w = false →
      completeCommand s = .next { s with err := true, errCode := 1, busy := false, done := true }

/-- R95: every word of the list is rejected at completion with ERRCODE 1 and nothing but STATUS changes, and
every other word is legal. -/
def Obligations.IllegalWordsRejected : Prop :=
  (∀ s : State, illegalWord s.cmd →
    completeCommand s = .next { s with err := true, errCode := 1, busy := false, done := true }) ∧
  ∀ w : Word, ¬illegalWord w → ∃ i, decode w = .ok i ∧ i.wellFormed = true

/-! ### Codec, round function, key schedule and block cipher: for every choice of the parameters -/

/-- R120 and R122: the codec is little-endian, loading undoes storing and storing undoes loading, for words and
for whole blocks. -/
def Obligations.CodecRoundTrip : Prop :=
  (∀ b0 b1 b2 b3 : Byte, (load32le b0 b1 b2 b3).toNat =
    b0.toNat + b1.toNat * 2 ^ 8 + b2.toNat * 2 ^ 16 + b3.toNat * 2 ^ 24) ∧
  (∀ (v : Word) (k : Fin 4), (wordBytes v)[k].toNat = v.toNat / 2 ^ (8 * k.val) % 256) ∧
  (∀ v : Word, load32le (wordBytes v)[0] (wordBytes v)[1] (wordBytes v)[2] (wordBytes v)[3] = v) ∧
  (∀ b : Vector Byte 4, wordBytes (load32le b[0] b[1] b[2] b[3]) = b) ∧
  load32le 0x78 0x56 0x34 0x12 = 0x12345678 ∧
  (∀ (v : Words6) (i : Fin 6) (k : Fin 4), (blockOfWords v)[4 * i.val + k.val] = (wordBytes v[i])[k]) ∧
  (∀ S : Block, blockOfWords (wordsOfBlock S) = S) ∧
  ∀ v : Words6, wordsOfBlock (blockOfWords v) = v

/-- R123, R126, R129 and R130: the six updated words of the diffusion, each from the words of lower index already
updated; each byte of the confusion; and the order of the layers in advance and in reverse. The rotation is the two
logical shifts of R11. -/
def Obligations.RoundLayerFormulas : Prop :=
  (∀ (x : Word) (n : Nat), rotl32 x n = (x <<< (n % 32)) ||| (x >>> (32 - n % 32))) ∧
  (∀ (P : Params) (v : Words6), let u := diffuse P v
    u[0] = rotl32 v[0] (P.rotR 0) + v[1] + v[2] + v[3] ∧ u[1] = rotl32 v[1] (P.rotR 1) + v[2] + v[3] + v[4] ∧
    u[2] = rotl32 v[2] (P.rotR 2) + v[3] + v[4] + v[5] ∧ u[3] = rotl32 v[3] (P.rotR 3) + v[4] + v[5] + u[0] ∧
    u[4] = rotl32 v[4] (P.rotR 4) + v[5] + u[0] + u[1] ∧ u[5] = rotl32 v[5] (P.rotR 5) + u[0] + u[1] + u[2]) ∧
  (∀ (P : Params) (S : Block) (j : Fin 24), (confuse P S)[j].toNat = S[j].toNat * (P.mul j).toNat % 256) ∧
  ∀ (P : Params) (S : Block), advance P S = confuse P (blockOfWords (diffuse P (wordsOfBlock S))) ∧
    reverse P S = blockOfWords (undiffuse P (wordsOfBlock (unconfuse P S)))

/-- R125: diffusion is invertible, in both directions, for every choice of the rotation amounts. -/
def Obligations.DiffusionInvertible : Prop :=
  ∀ (P : Params) (v : Words6), undiffuse P (diffuse P v) = v ∧ diffuse P (undiffuse P v) = v

/-- R127: `MINV[j]` is the one byte whose product with `MUL[j]` is 1 mod 256, and `MUL[j]` is odd. -/
def Obligations.MultiplierInverseUnique : Prop :=
  ∀ (P : Params) (j : Fin 24), (P.mul j).toNat % 2 = 1 ∧ (P.mul j).toNat * (minv P j).toNat % 256 = 1 ∧
    ∀ b : Byte, (P.mul j).toNat * b.toNat % 256 = 1 → b = minv P j

/-- R128: the inverse confusion multiplies each byte by `MINV[j]` mod 256, undoes the forward one and is undone
by it; byte 0 goes to 0 in both directions. -/
def Obligations.ConfusionInvertible : Prop :=
  ∀ (P : Params) (S : Block),
    (∀ j : Fin 24, (unconfuse P S)[j].toNat = S[j].toNat * (minv P j).toNat % 256) ∧
    unconfuse P (confuse P S) = S ∧ confuse P (unconfuse P S) = S ∧
    ∀ j : Fin 24, S[j] = 0 → (confuse P S)[j] = 0 ∧ (unconfuse P S)[j] = 0

/-- R131: any number of inverse rounds undoes as many forward rounds, and the other way round. -/
def Obligations.RoundFunctionRoundTrip : Prop :=
  ∀ (P : Params) (S : Block) (n : Nat),
    (reverse P)^[n] ((advance P)^[n] S) = S ∧ (advance P)^[n] ((reverse P)^[n] S) = S

/-- R132: the facts about advance that hold for every choice of the parameters. -/
def Obligations.RoundFunctionFixedFacts : Prop :=
  ∀ P : Params,
    advance P (Vector.replicate 24 0) = Vector.replicate 24 0 ∧
    reverse P (Vector.replicate 24 0) = Vector.replicate 24 0 ∧
    (let p : Word := BitVec.ofNat 32 (2 ^ ((P.rotR 0).val % 32))
     diffuse P #v[1, 0, 0, 0, 0, 0] = #v[p, 0, 0, p, p, p] ∧
     ∀ j : Fin 24, (advance P (blockOfWords #v[1, 0, 0, 0, 0, 0]))[j]
       = (blockOfWords #v[p, 0, 0, p, p, p])[j] * P.mul j) ∧
    Function.Bijective (advance P)

/-- R161 to R163: the guard changes each byte from its own value and index; sub-step 1 replaces byte KO_POS of
each group of four and no other; sub-step 2 computes every new word from the old words. -/
def Obligations.KeyTransformationSteps : Prop :=
  ∀ (P : Params) (k : KeyState),
    (∀ j : Fin 32, (wkg P k)[j] = k[j] ^^^ P.wkgH j k[j]) ∧
    (∀ (g : Fin 8) (p : Fin 4), (ko1 P k)[4 * g.val + p.val] =
      if p = P.koPos then P.koF g k[4 * g.val] k[4 * g.val + 1] k[4 * g.val + 2] k[4 * g.val + 3]
      else k[4 * g.val + p.val]) ∧
    (∀ i : Fin 8, (wordsOfKey (ko2 P k))[i] =
      (wordsOfKey k)[i] + rotl32 (((wordsOfKey k)[i - 1] ^^^ (wordsOfKey k)[i]) + (wordsOfKey k)[i - 2]) (P.ksS i)) ∧
    transform P k = ko2 P (ko1 P (wkg P k))

/-- R165: snapshot j of the expansion is the key state after `8 (j + 1)` transformations. -/
def Obligations.ExpansionSnapshots : Prop :=
  ∀ (P : Params) (K : KeyState) (j : Fin 6) (i : Fin 32),
    (expand P K)[32 * j.val + i.val] = ((transform P)^[8 * (j.val + 1)] K)[i]

/-- R200 to R203: E is the rounds 0 to 7, each advance and then the XOR with RK[24r .. 24r+23]; D is the rounds 7 to
0, each that XOR and then reverse; and each undoes the other, for every block and every RK. The state after r rounds
of E is `x r`, and the state of D with the rounds below r still to do is `y r`. The XOR of blocks that the mode
statements use is bytewise too (R11). -/
def Obligations.BlockCipherRoundTrip : Prop :=
  ∀ (P : Params) (rk : RoundKeys) (S : Block),
    (∃ x : Nat → Block, x 0 = S ∧ encryptBlock P rk S = x 8 ∧
      ∀ r : Fin 8, x (r.val + 1) = Vector.ofFn fun j => (advance P (x r.val))[j] ^^^ rk[24 * r.val + j.val]) ∧
    (∃ y : Nat → Block, y 8 = S ∧ decryptBlock P rk S = y 0 ∧
      ∀ r : Fin 8, y r.val = reverse P (Vector.ofFn fun j => (y (r.val + 1))[j] ^^^ rk[24 * r.val + j.val])) ∧
    decryptBlock P rk (encryptBlock P rk S) = S ∧ encryptBlock P rk (decryptBlock P rk S) = S ∧
    ∀ (T : Block) (j : Fin 24), (xorBlock S T)[j] = S[j] ^^^ T[j]

/-- R204: with RK all zero, E is eight rounds of advance and D eight of reverse; E of the zero block is zero. -/
def Obligations.PlaceholderCipher : Prop :=
  ∀ (P : Params) (S : Block),
    encryptBlock P (Vector.replicate 192 0) S = (advance P)^[8] S ∧
    decryptBlock P (Vector.replicate 192 0) S = (reverse P)^[8] S ∧
    encryptBlock P (Vector.replicate 192 0) (Vector.replicate 24 0) = Vector.replicate 24 0

/-- R245: the counter block's bytes, and its words 4 and 5 as the counter's halves. -/
def Obligations.CounterBlockLayout : Prop :=
  ∀ (P : Params) (N : Vector Byte 12) (c : BitVec 64),
    (∀ j : Fin 4, (ctrBlock P N c)[j.val] = P.ctrPrefix j) ∧
    (∀ j : Fin 12, (ctrBlock P N c)[4 + j.val] = N[j]) ∧
    (∀ k : Fin 8, (ctrBlock P N c)[16 + k.val].toNat = c.toNat / 2 ^ (8 * k.val) % 256) ∧
    (wordsOfBlock (ctrBlock P N c))[4] = c.extractLsb' 0 32 ∧
    (wordsOfBlock (ctrBlock P N c))[5] = c.extractLsb' 32 32

/-! ### Commands: result, completion and frame -/

/-- R270: NOP completes with no effect but on STATUS, from every state. -/
def Obligations.NopCompletes : Prop :=
  ∀ s : State, exec .nop s = .next { s with busy := false, done := true }

/-- R271 and R127: TBLCHK finds no wrong table entry on a conforming unit and completes like NOP (MINV is
computed from MUL, log entry 8). -/
def Obligations.TblchkCompletes : Prop :=
  ∀ s : State, (∀ j : Fin 24, (Config.params.mul j).toNat * (minv Config.params j).toNat % 256 = 1) ∧
    exec .tblchk s = .next { s with busy := false, done := true }

/-- R140: with a legal count and a block that is aligned and fits, RF.ADV replaces the block at BUF_ADDR by its
n-th advance; every other byte of BUF and every other register is unchanged. -/
def Obligations.RfAdvResult : Prop :=
  ∀ (cnt : BitVec 4) (s : State), 1 ≤ cnt.toNat → cnt.toNat ≤ 8 → s.fits Config.params 24 →
    ∃ t, exec (.rfAdv cnt) s = .next t ∧ s.wroteBuf t ∧
      t.memRead Config.params s.bufAddr.toNat 24
        = (advance Config.params)^[cnt.toNat] (s.memRead Config.params s.bufAddr.toNat 24) ∧
      s.sameOutside Config.params t s.bufAddr.toNat 24

/-- R141: as RF.ADV, with reverse. -/
def Obligations.RfRevResult : Prop :=
  ∀ (cnt : BitVec 4) (s : State), 1 ≤ cnt.toNat → cnt.toNat ≤ 8 → s.fits Config.params 24 →
    ∃ t, exec (.rfRev cnt) s = .next t ∧ s.wroteBuf t ∧
      t.memRead Config.params s.bufAddr.toNat 24
        = (reverse Config.params)^[cnt.toNat] (s.memRead Config.params s.bufAddr.toNat 24) ∧
      s.sameOutside Config.params t s.bufAddr.toNat 24

/-- R140 and R141: where RF.ADV and RF.REV are rejected: ILLEGAL for a count outside 1..8, whatever BUF_ADDR is;
RANGE for a legal count and a block that is not aligned or does not fit. LEN is not read. -/
def Obligations.RfRejected : Prop :=
  ∀ (cnt : BitVec 4) (s : State) (i : Instr), i = .rfAdv cnt ∨ i = .rfRev cnt →
    ((cnt.toNat = 0 ∨ 9 ≤ cnt.toNat) →
      exec i s = .next { s with err := true, errCode := 1, busy := false, done := true }) ∧
    (1 ≤ cnt.toNat → cnt.toNat ≤ 8 →
      (s.bufAddr.toNat % 4 ≠ 0 ∨ Config.params.bufBytes < s.bufAddr.toNat + 24) →
      exec i s = .next { s with err := true, errCode := 3, busy := false, done := true })

/-- R141: RF.ADV n and then RF.REV n at the same BUF_ADDR restores every byte of BUF. -/
def Obligations.RfRevRestores : Prop :=
  ∀ (cnt : BitVec 4) (s : State), 1 ≤ cnt.toNat → cnt.toNat ≤ 8 → s.fits Config.params 24 →
    ∃ t r, exec (.rfAdv cnt) s = .next t ∧ exec (.rfRev cnt) t = .next r ∧
      ∀ o, r.byteAt Config.params o = s.byteAt Config.params o

/-- R180: KEYEXP puts the expansion of the master key into RK, sets KEYED, clears KEY0..KEY7 and changes nothing
else but STATUS, from every state. Byte `4n+k` of the master key is byte k of KEYn. -/
def Obligations.KeyexpResult : Prop :=
  ∀ s : State, ∃ K : KeyState,
    (∀ (n : Fin 8) (k : Fin 4), K[4 * n.val + k.val].toNat = s.key[n].toNat / 2 ^ (8 * k.val) % 256) ∧
    exec .keyexp s = .next { s with
      rk := expand Config.params K, keyed := true, key := Vector.replicate 8 0, busy := false, done := true }

/-- R181: KEYCLR zeroes RK, KEYED and KEY0..KEY7 and changes nothing else but STATUS, from every state. -/
def Obligations.KeyclrResult : Prop :=
  ∀ s : State, exec .keyclr s = .next { s with
    rk := Vector.replicate 192 0, keyed := false, key := Vector.replicate 8 0, busy := false, done := true }

/-- R225: where the prologue passes, ECB.ENC replaces every block of the region by its encryption, and nothing
else changes but STATUS. -/
def Obligations.EcbEncResult : Prop :=
  ∀ s : State, s.regionOk Config.params →
    ∃ t, exec .ecbEnc s = .next t ∧ s.wroteBuf t ∧
      (∀ b < s.len.toNat / 24, t.blockAt Config.params b
        = encryptBlock Config.params s.rk (s.blockAt Config.params b)) ∧
      s.sameOutside Config.params t s.bufAddr.toNat s.len.toNat

/-- R226: ECB.DEC, with D. -/
def Obligations.EcbDecResult : Prop :=
  ∀ s : State, s.regionOk Config.params →
    ∃ t, exec .ecbDec s = .next t ∧ s.wroteBuf t ∧
      (∀ b < s.len.toNat / 24, t.blockAt Config.params b
        = decryptBlock Config.params s.rk (s.blockAt Config.params b)) ∧
      s.sameOutside Config.params t s.bufAddr.toNat s.len.toNat

/-- R230: CBC.ENC: each output block is E of the input block XOR the output block before it, IV before the first;
CHAIN_OUT is the last output block, IV if there is none; nothing else changes but STATUS. -/
def Obligations.CbcEncResult : Prop :=
  ∀ s : State, s.regionOk Config.params →
    ∃ t, exec .cbcEnc s = .next t ∧
      t = { s with buf := t.buf, chainOut := t.chainOut, busy := false, done := true } ∧
      (∀ b < s.len.toNat / 24, t.blockAt Config.params b
        = encryptBlock Config.params s.rk (xorBlock (s.blockAt Config.params b)
            (if b = 0 then blockOfWords s.iv else t.blockAt Config.params (b - 1)))) ∧
      blockOfWords t.chainOut = (if s.len.toNat = 0 then blockOfWords s.iv
        else t.blockAt Config.params (s.len.toNat / 24 - 1)) ∧
      s.sameOutside Config.params t s.bufAddr.toNat s.len.toNat

/-- R235: CBC.DEC: each output block is D of the input block XOR the INPUT block before it, IV before the first;
CHAIN_OUT is the last input block, IV if there is none. -/
def Obligations.CbcDecResult : Prop :=
  ∀ s : State, s.regionOk Config.params →
    ∃ t, exec .cbcDec s = .next t ∧
      t = { s with buf := t.buf, chainOut := t.chainOut, busy := false, done := true } ∧
      (∀ b < s.len.toNat / 24, t.blockAt Config.params b
        = xorBlock (decryptBlock Config.params s.rk (s.blockAt Config.params b))
            (if b = 0 then blockOfWords s.iv else s.blockAt Config.params (b - 1))) ∧
      blockOfWords t.chainOut = (if s.len.toNat = 0 then blockOfWords s.iv
        else s.blockAt Config.params (s.len.toNat / 24 - 1)) ∧
      s.sameOutside Config.params t s.bufAddr.toNat s.len.toNat

/-- R240: OFB.XCRYPT: block b is XORed with E applied `b + 1` times to IV; CHAIN_OUT is the last keystream block,
IV if there is none. -/
def Obligations.OfbXcryptResult : Prop :=
  ∀ s : State, s.regionOk Config.params →
    ∃ t, exec .ofbXcrypt s = .next t ∧
      t = { s with buf := t.buf, chainOut := t.chainOut, busy := false, done := true } ∧
      (∀ b < s.len.toNat / 24, t.blockAt Config.params b
        = xorBlock (s.blockAt Config.params b) ((encryptBlock Config.params s.rk)^[b + 1] (blockOfWords s.iv))) ∧
      blockOfWords t.chainOut = (encryptBlock Config.params s.rk)^[s.len.toNat / 24] (blockOfWords s.iv) ∧
      s.sameOutside Config.params t s.bufAddr.toNat s.len.toNat

/-- R250, R246: CTR.XCRYPT: block b is XORed with E of the counter block for `CTR + b` mod 2^64; CTR_OUT is CTR
plus the number of blocks, mod 2^64. R34, R31, R35: byte `4n+k` of the nonce is bits `8k+7:8k` of NONCEn, and CTR and
CTR_OUT are their two halves, HI above LO. -/
def Obligations.CtrXcryptResult : Prop :=
  ∀ s : State, s.regionOk Config.params →
    (∀ (n : Fin 3) (k : Fin 4), s.nonceBytes[4 * n.val + k.val].toNat = s.nonce[n].toNat / 2 ^ (8 * k.val) % 256) ∧
    s.counter.toNat = s.ctrHi.toNat * 2 ^ 32 + s.ctrLo.toNat ∧
    ∃ t, exec .ctrXcrypt s = .next t ∧
      t = { s with
        buf := t.buf, ctrOutLo := t.ctrOutLo, ctrOutHi := t.ctrOutHi, busy := false, done := true } ∧
      (∀ b < s.len.toNat / 24, t.blockAt Config.params b
        = xorBlock (s.blockAt Config.params b) (encryptBlock Config.params s.rk
            (ctrBlock Config.params s.nonceBytes (s.counter + BitVec.ofNat 64 b)))) ∧
      t.ctrOutHi.toNat * 2 ^ 32 + t.ctrOutLo.toNat = (s.counter.toNat + s.len.toNat / 24) % 2 ^ 64 ∧
      s.sameOutside Config.params t s.bufAddr.toNat s.len.toNat

/-- R220: where the six mode commands are rejected: LENGTH first, whatever BUF_ADDR is, then RANGE; nothing but
STATUS changes. -/
def Obligations.ModePrologueRejects : Prop :=
  ∀ (i : Instr) (s : State), i ∈ modeCommands →
    (s.len.toNat % 24 ≠ 0 →
      exec i s = .next { s with err := true, errCode := 2, busy := false, done := true }) ∧
    (s.len.toNat % 24 = 0 →
      (s.bufAddr.toNat % 4 ≠ 0 ∨ Config.params.bufBytes < s.bufAddr.toNat + s.len.toNat) →
      exec i s = .next { s with err := true, errCode := 3, busy := false, done := true })

/-- R223: with LEN = 0 and BUF_ADDR aligned and at most BUF_BYTES, no byte of BUF changes; the CBC and OFB
commands set CHAIN_OUT to IV, and CTR.XCRYPT sets CTR_OUT to CTR. -/
def Obligations.EmptyRegion : Prop :=
  ∀ s : State, s.len = 0 →
    (s.bufAddr.toNat % 4 = 0 → s.bufAddr.toNat ≤ Config.params.bufBytes →
      (∀ i ∈ [Instr.ecbEnc, .ecbDec], exec i s = .next { s with busy := false, done := true }) ∧
      (∀ i ∈ [Instr.cbcEnc, .cbcDec, .ofbXcrypt],
        exec i s = .next { s with chainOut := s.iv, busy := false, done := true }) ∧
      exec .ctrXcrypt s = .next { s with
        ctrOutLo := s.ctrLo, ctrOutHi := s.ctrHi, busy := false, done := true }) ∧
    (s.bufAddr.toNat % 4 ≠ 0 ∨ Config.params.bufBytes < s.bufAddr.toNat →
      ∀ i ∈ modeCommands, exec i s = .next { s with err := true, errCode := 3, busy := false, done := true })

/-- R255: the mode round trips: decryption after encryption, and OFB and CTR twice, give every byte of BUF its
value back, for every RK, IV, nonce, counter and region that passes the prologue. -/
def Obligations.ModesRoundTrip : Prop :=
  ∀ (s : State) (f g : Instr),
    (f, g) ∈ [(Instr.ecbEnc, Instr.ecbDec), (.cbcEnc, .cbcDec), (.ofbXcrypt, .ofbXcrypt),
      (.ctrXcrypt, .ctrXcrypt)] →
    s.regionOk Config.params →
    ∃ t r, exec f s = .next t ∧ exec g t = .next r ∧
      ∀ o, r.byteAt Config.params o = s.byteAt Config.params o

/-- R256: OFB.XCRYPT and CTR.XCRYPT are involutions on the region, and what they XOR into it depends on RK, IV,
NONCE and CTR, not on BUF. -/
def Obligations.KeystreamIndependentOfData : Prop :=
  ∀ (s s' : State) (i : Instr), i = .ofbXcrypt ∨ i = .ctrXcrypt → s.regionOk Config.params →
    s'.rk = s.rk → s'.iv = s.iv → s'.nonce = s.nonce → s'.ctrLo = s.ctrLo → s'.ctrHi = s.ctrHi →
    s'.bufAddr = s.bufAddr → s'.len = s.len →
    ∃ t t' r, exec i s = .next t ∧ exec i s' = .next t' ∧ exec i t = .next r ∧
      (∀ b < s.len.toNat / 24,
        xorBlock (t.blockAt Config.params b) (s.blockAt Config.params b)
          = xorBlock (t'.blockAt Config.params b) (s'.blockAt Config.params b)) ∧
      ∀ o, r.byteAt Config.params o = s.byteAt Config.params o

/-- R230: a region split into two CBC.ENC commands, the second with IV set to the first's CHAIN_OUT, is
encrypted as by one command over the whole region, with the same CHAIN_OUT. -/
def Obligations.CbcEncSplits : Prop :=
  ∀ (s : State) (n m : Nat), s.fits Config.params (24 * n + 24 * m) →
    ∃ t r w : State,
      exec .cbcEnc { s with len := BitVec.ofNat 32 (24 * n) } = .next t ∧
      exec .cbcEnc { t with
        iv := t.chainOut, bufAddr := s.bufAddr + BitVec.ofNat 32 (24 * n), len := BitVec.ofNat 32 (24 * m) }
        = .next r ∧
      exec .cbcEnc { s with len := BitVec.ofNat 32 (24 * n + 24 * m) } = .next w ∧
      r.chainOut = w.chainOut ∧ ∀ o, r.byteAt Config.params o = w.byteAt Config.params o

/-- R222: no command reads CHAIN_OUT or CTR_OUT: two states that differ only there complete any command with the
same BUF, RK, KEYED, KEY registers, STATUS and operand registers; where the command writes CHAIN_OUT or CTR_OUT the two
next states agree there, and where it does not, each keeps its own. -/
def Obligations.OutputsAreNotRead : Prop :=
  ∀ (i : Instr) (s t t' : State) (c : Vector Word 6) (lo hi : Word), exec i s = .next t →
    exec i { s with chainOut := c, ctrOutLo := lo, ctrOutHi := hi } = .next t' →
    t' = { t with chainOut := t'.chainOut, ctrOutLo := t'.ctrOutLo, ctrOutHi := t'.ctrOutHi } ∧
    (i ∈ [Instr.cbcEnc, .cbcDec, .ofbXcrypt] ∧ s.regionOk Config.params → t'.chainOut = t.chainOut) ∧
    (¬(i ∈ [Instr.cbcEnc, .cbcDec, .ofbXcrypt] ∧ s.regionOk Config.params) →
      t.chainOut = s.chainOut ∧ t'.chainOut = c) ∧
    (i = .ctrXcrypt ∧ s.regionOk Config.params → t'.ctrOutLo = t.ctrOutLo ∧ t'.ctrOutHi = t.ctrOutHi) ∧
    (¬(i = .ctrXcrypt ∧ s.regionOk Config.params) →
      t.ctrOutLo = s.ctrOutLo ∧ t.ctrOutHi = s.ctrOutHi ∧ t'.ctrOutLo = lo ∧ t'.ctrOutHi = hi) ∧
    t.iv = s.iv ∧ t.nonce = s.nonce ∧ t.ctrLo = s.ctrLo ∧ t.ctrHi = s.ctrHi

/-- R42: which state each command writes, over all twelve commands and every state. -/
def Obligations.CommandFrame : Prop :=
  ∀ (i : Instr) (s t : State), exec i s = .next t →
    t = { s with
      buf := t.buf, rk := t.rk, keyed := t.keyed, key := t.key, chainOut := t.chainOut, ctrOutLo := t.ctrOutLo,
      ctrOutHi := t.ctrOutHi, busy := t.busy, done := t.done, err := t.err, errCode := t.errCode } ∧
    (i ∈ [Instr.nop, .tblchk, .keyexp, .keyclr] → t.buf = s.buf) ∧
    ((∃ cnt, i = .rfAdv cnt ∨ i = .rfRev cnt) → s.sameOutside Config.params t s.bufAddr.toNat 24) ∧
    (i ∈ modeCommands → s.sameOutside Config.params t s.bufAddr.toNat s.len.toNat) ∧
    (i ≠ .keyexp → i ≠ .keyclr → t.rk = s.rk ∧ t.keyed = s.keyed ∧ t.key = s.key) ∧
    (i ∉ [Instr.cbcEnc, .cbcDec, .ofbXcrypt] → t.chainOut = s.chainOut) ∧
    (i ≠ .ctrXcrypt → t.ctrOutLo = s.ctrOutLo ∧ t.ctrOutHi = s.ctrOutHi)

/-! ### Completion, errors and the interrupt -/

/-- R300: the unit's turn is the completion step exactly when BUSY = 1 and the unit is not held in reset (R350); it
performs the word in CMD, clears BUSY and sets DONE, and leaves CMD. That the unit has turns at which its step is not
enabled, and that such a turn changes nothing, is the model's choice (log entry 3). -/
def Obligations.CompletionStep : Prop :=
  ∀ s : State,
    (s.busy = true → s.rstLow = false → unitTurn s = completeCommand s ∧
      ∃ t, completeCommand s = .next t ∧ t.busy = false ∧ t.done = true ∧ t.cmd = s.cmd) ∧
    (s.busy = false ∨ s.rstLow = true → unitTurn s = .next s)

/-- R303: a completion that ends with ERR, begun with ERR clear, changed nothing but BUSY, DONE, ERR and ERRCODE.
(ERR is clear at every completion of a run: the invariant of `StepKeepsInvariant`.) -/
def Obligations.RejectionChangesOnlyStatus : Prop :=
  ∀ s t : State, s.err = false → completeCommand s = .next t → t.err = true →
    t = { s with err := true, errCode := t.errCode, busy := false, done := true } ∧ t.errCode ≠ 0

/-- R302: the code that a completion reports, in the order of the checks; and the words and operands that failed
are still in CMD, BUF_ADDR and LEN. -/
def Obligations.ErrorCodeOrder : Prop :=
  ∀ s : State, s.err = false → s.errCode = 0 →
    ∃ t, completeCommand s = .next t ∧ t.cmd = s.cmd ∧ t.bufAddr = s.bufAddr ∧ t.len = s.len ∧
      (t.err = true ↔ t.errCode ≠ 0) ∧
      t.errCode.toNat =
        if legal s.cmd = false then 1
        else if 0x20 ≤ opcNat s.cmd ∧ s.len.toNat % 24 ≠ 0 then 2
        else if (0x20 ≤ opcNat s.cmd ∧
            (s.bufAddr.toNat % 4 ≠ 0 ∨ Config.params.bufBytes < s.bufAddr.toNat + s.len.toNat)) ∨
          ((opcNat s.cmd = 1 ∨ opcNat s.cmd = 2) ∧
            (s.bufAddr.toNat % 4 ≠ 0 ∨ Config.params.bufBytes < s.bufAddr.toNat + 24)) then 3
        else if opcNat s.cmd = 3 ∧
          ∃ j : Fin 24, (Config.params.mul j).toNat * (minv Config.params j).toNat % 256 ≠ 1 then 4
        else 0

/-- R310: irq is IE and DONE; the W1C of bit 1 and acceptance clear it, ACCERR does not move it, and a completion
raises it when enabled, rejected or not. -/
def Obligations.InterruptLevel : Prop :=
  (∀ s : State, s.irq = true ↔ s.ie = true ∧ s.done = true) ∧
  (∀ (s : State) (d : Word), d.getLsbD 1 = true → (s.hostWrite Config.params 0x004 d).irq = false) ∧
  (∀ (s : State) (w : Word), s.busy = false → (s.hostWrite Config.params 0x000 w).irq = false) ∧
  (∀ (s t : State), completeCommand s = .next t → t.irq = s.ie) ∧
  ∀ (s : State) (b : Bool), State.irq { s with accErr := b } = s.irq

/-! ### The host bus -/

/-- R23: a write to CMD while idle accepts the word, whatever it is, and does exactly the listed writes; while
busy it is refused; a read returns the last accepted word, busy or not. -/
def Obligations.CmdWriteAccepts : Prop :=
  (∀ (s : State) (w : Word),
    (s.busy = false → s.hostWrite Config.params 0x000 w
      = { s with cmd := w, busy := true, done := false, err := false, errCode := 0 }) ∧
    (s.busy = true → s.hostWrite Config.params 0x000 w = { s with accErr := true }) ∧
    s.hostRead Config.params 0x000 = (s.cmd, s)) ∧
  State.reset.cmd = 0

/-- R24: the fields a read of STATUS returns, busy or not, and what a write to it clears. -/
def Obligations.StatusReadAndClear : Prop :=
  ∀ s : State,
    (∃ w, s.hostRead Config.params 0x004 = (w, s) ∧ w.getLsbD 0 = s.busy ∧ w.getLsbD 1 = s.done ∧
      w.getLsbD 2 = s.err ∧ w.getLsbD 3 = s.accErr ∧ w.getLsbD 4 = s.keyed ∧ w.extractLsb' 5 3 = 0 ∧
      w.extractLsb' 8 4 = s.errCode ∧ w.extractLsb' 12 20 = 0) ∧
    ∀ d : Word, s.hostWrite Config.params 0x004 d = { s with
      done := if d.getLsbD 1 then false else s.done
      err := if d.getLsbD 2 then false else s.err
      errCode := if d.getLsbD 2 then 0 else s.errCode
      accErr := if d.getLsbD 3 then false else s.accErr }

/-- R25, R27 and R28: CTRL keeps bit 0 only and can be accessed while busy; ID and PARAM read their constants and
ignore writes, busy or not. -/
def Obligations.CtrlIdParamRegisters : Prop :=
  (∀ (s : State) (d : Word),
    s.hostWrite Config.params 0x008 d = { s with ie := d.getLsbD 0 } ∧
    s.hostRead Config.params 0x008 = ((if s.ie then 1 else 0), s) ∧
    s.hostRead Config.params 0x00C = (0x0034504F, s) ∧ s.hostWrite Config.params 0x00C d = s ∧
    s.hostWrite Config.params 0x088 d = s) ∧
  State.reset.ie = false ∧
  ∀ (P : Params) (s : State), ∃ w, s.hostRead P 0x088 = (w, s) ∧ w.toNat % 256 = 24 ∧ w.toNat / 256 % 256 = 8 ∧
    w.toNat / 65536 = P.bufBytes ∧ (P.bufBytes = 3072 → w = 0x0C000818)

/-- R32: while idle a write to KEYn sets that register and nothing else, and its bytes of the master key; a read
returns 0 and has no effect; KEYEXP and KEYCLR clear all eight. -/
def Obligations.KeyRegistersWriteOnly : Prop :=
  (∀ (s : State) (n : Fin 8) (d : Word), s.busy = false →
    s.hostWrite Config.params (BitVec.ofNat 13 (0x020 + 4 * n.val)) d = { s with key := s.key.set n d } ∧
    (∀ k : Fin 4, (s.hostWrite Config.params (BitVec.ofNat 13 (0x020 + 4 * n.val)) d).masterKey[4 * n.val + k.val]
      = d.extractLsb' (8 * k.val) 8) ∧
    s.hostRead Config.params (BitVec.ofNat 13 (0x020 + 4 * n.val)) = (0, s)) ∧
  (∀ (s t : State) (i : Instr), i = .keyexp ∨ i = .keyclr → exec i s = .next t → t.key = Vector.replicate 8 0) ∧
  State.reset.key = Vector.replicate 8 0

/-- R22, R29 to R31, R33 to R36, R68 and R71: while idle, each operand register is at its own address, where a write
sets it and nothing else and a read returns it and changes nothing; CTR_OUT and CHAIN_OUT are read at theirs, and a
write there changes nothing, ACCERR included. A word written to an operand register or to a word of BUF reads back,
and a read of any other address returns what it did before. -/
def Obligations.WordsReadBack : Prop :=
  (∀ (s : State) (d : Word), s.busy = false →
    (s.hostWrite Config.params 0x010 d = { s with bufAddr := d } ∧ s.hostRead Config.params 0x010 = (s.bufAddr, s)) ∧
    (s.hostWrite Config.params 0x014 d = { s with len := d } ∧ s.hostRead Config.params 0x014 = (s.len, s)) ∧
    (s.hostWrite Config.params 0x018 d = { s with ctrLo := d } ∧ s.hostRead Config.params 0x018 = (s.ctrLo, s)) ∧
    (s.hostWrite Config.params 0x01C d = { s with ctrHi := d } ∧ s.hostRead Config.params 0x01C = (s.ctrHi, s)) ∧
    (∀ n : Fin 6, s.hostWrite Config.params (BitVec.ofNat 13 (0x040 + 4 * n.val)) d = { s with iv := s.iv.set n d } ∧
      s.hostRead Config.params (BitVec.ofNat 13 (0x040 + 4 * n.val)) = (s.iv[n], s)) ∧
    (∀ n : Fin 3,
      s.hostWrite Config.params (BitVec.ofNat 13 (0x058 + 4 * n.val)) d = { s with nonce := s.nonce.set n d } ∧
      s.hostRead Config.params (BitVec.ofNat 13 (0x058 + 4 * n.val)) = (s.nonce[n], s)) ∧
    (s.hostWrite Config.params 0x064 d = s ∧ s.hostRead Config.params 0x064 = (s.ctrOutLo, s)) ∧
    (s.hostWrite Config.params 0x068 d = s ∧ s.hostRead Config.params 0x068 = (s.ctrOutHi, s)) ∧
    ∀ n : Fin 6, s.hostWrite Config.params (BitVec.ofNat 13 (0x070 + 4 * n.val)) d = s ∧
      s.hostRead Config.params (BitVec.ofNat 13 (0x070 + 4 * n.val)) = (s.chainOut[n], s)) ∧
  ∀ (s : State) (d : Word) (a : BusAddr), s.busy = false → a.toNat % 4 = 0 →
    (0x010 ≤ a.toNat ∧ a.toNat < 0x020 ∨ 0x040 ≤ a.toNat ∧ a.toNat < 0x064 ∨
      0x1000 ≤ a.toNat ∧ a.toNat + 4 ≤ 0x1000 + Config.params.bufBytes) →
    (s.hostWrite Config.params a d).hostRead Config.params a = (d, s.hostWrite Config.params a d) ∧
    ∀ a' : BusAddr, a' ≠ a → ((s.hostWrite Config.params a d).hostRead Config.params a').1
      = (s.hostRead Config.params a').1

/-- R66: while idle, the BUF window is little-endian in both directions, and a write changes four bytes only; byte k
of what MemRead gives at `a` is BUF[a+k] (R63). -/
def Obligations.BufWindowLittleEndian : Prop :=
  ∀ (s : State) (d : Word) (o : Nat), s.busy = false → o % 4 = 0 → o + 4 ≤ Config.params.bufBytes →
    (∃ t, s.hostWrite Config.params (BitVec.ofNat 13 (0x1000 + o)) d = t ∧ t = { s with buf := t.buf } ∧
      (∀ k : Fin 4, (t.byteAt Config.params (o + k.val)).toNat = d.toNat / 2 ^ (8 * k.val) % 256) ∧
      s.sameOutside Config.params t o 4) ∧
    (∃ w, s.hostRead Config.params (BitVec.ofNat 13 (0x1000 + o)) = (w, s) ∧ w.toNat =
      (s.byteAt Config.params o).toNat + (s.byteAt Config.params (o + 1)).toNat * 2 ^ 8 +
      (s.byteAt Config.params (o + 2)).toNat * 2 ^ 16 + (s.byteAt Config.params (o + 3)).toNat * 2 ^ 24) ∧
    (∀ (a n : Nat) (k : Fin n), (s.memRead Config.params a n)[k] = s.byteAt Config.params (a + k.val)) ∧
    ∀ (a : Nat) (i : Fin 6), o = a + 4 * i.val → a + 24 ≤ Config.params.bufBytes →
      (wordsOfBlock (State.memRead Config.params (s.hostWrite Config.params (BitVec.ofNat 13 (0x1000 + o)) d) a 24))[i]
        = d

/-- R65: an access to a misaligned address, whichever it is, is refused: a read returns 0, a write does nothing,
and ACCERR is set. -/
def Obligations.MisalignedRefused : Prop :=
  ∀ (s : State) (a : BusAddr) (d : Word), a.toNat % 4 ≠ 0 →
    s.hostRead Config.params a = (0, { s with accErr := true }) ∧
    s.hostWrite Config.params a d = { s with accErr := true }

/-- R37: an access to a reserved address is refused in the same way, busy or not. -/
def Obligations.ReservedRefused : Prop :=
  ∀ (s : State) (a : BusAddr) (d : Word),
    (a.toNat = 0x06C ∨ 0x08C ≤ a.toNat ∧ a.toNat ≤ 0x0FFC ∨ 0x1000 + Config.params.bufBytes ≤ a.toNat) →
    s.hostRead Config.params a = (0, { s with accErr := true }) ∧
    s.hostWrite Config.params a d = { s with accErr := true }

/-- R67: while busy, exactly the reads of CMD, STATUS, CTRL, ID and PARAM and the writes to STATUS, CTRL, ID and
PARAM are allowed; every other aligned access is refused. -/
def Obligations.BusyAccessRule : Prop :=
  ∀ (s : State) (a : BusAddr) (d : Word), s.busy = true → a.toNat % 4 = 0 →
    (a.toNat ∈ [0x000, 0x004, 0x008, 0x00C, 0x088] → (s.hostRead Config.params a).2 = s) ∧
    (a.toNat ∉ [0x000, 0x004, 0x008, 0x00C, 0x088] →
      s.hostRead Config.params a = (0, { s with accErr := true })) ∧
    (a.toNat = 0x004 → s.hostWrite Config.params a d = s.writeStatus d) ∧
    (a.toNat = 0x008 → s.hostWrite Config.params a d = s.writeCtrl d) ∧
    (a.toNat = 0x00C ∨ a.toNat = 0x088 → s.hostWrite Config.params a d = s) ∧
    (a.toNat ∉ [0x004, 0x008, 0x00C, 0x088] → s.hostWrite Config.params a d = { s with accErr := true })

/-- R69: a read changes nothing, or it is refused, returns 0 and only sets ACCERR; repeated at once, it returns
the same value. -/
def Obligations.ReadSideEffects : Prop :=
  ∀ (s : State) (a : BusAddr),
    (s.readRefused Config.params a = false → (s.hostRead Config.params a).2 = s) ∧
    (s.readRefused Config.params a = true → s.hostRead Config.params a = (0, { s with accErr := true })) ∧
    ((s.hostRead Config.params a).2.hostRead Config.params a).1 = (s.hostRead Config.params a).1

/-- R38 and R74: no bus access can tell two key contexts apart: with RK and KEY0..KEY7 replaced by anything, every
read returns the same word, and every access leaves the same state but for them. -/
def Obligations.KeyMaterialUnreadable : Prop :=
  ∀ (s : State) (r : RoundKeys) (k : Vector Word 8) (a : BusAddr) (d : Word),
    (State.hostRead Config.params a { s with rk := r, key := k }).1 = (s.hostRead Config.params a).1 ∧
    (State.hostRead Config.params a { s with rk := r, key := k }).2
      = { (s.hostRead Config.params a).2 with rk := r, key := k } ∧
    ∃ k', State.hostWrite Config.params a d { s with rk := r, key := k }
      = { s.hostWrite Config.params a d with rk := r, key := k' }

/-! ### Reset and the whole machine -/

/-- R43: the reset values, the complete list. (BUF is unspecified and is not mentioned.) -/
def Obligations.ResetValues : Prop :=
  State.reset.cmd = 0 ∧ State.reset.statusWord = 0 ∧ State.reset.ctrlWord = 0 ∧ State.reset.bufAddr = 0 ∧
    State.reset.len = 0 ∧ State.reset.ctrLo = 0 ∧ State.reset.ctrHi = 0 ∧ (∀ n : Fin 8, State.reset.key[n] = 0) ∧
    (∀ n : Fin 6, State.reset.iv[n] = 0) ∧ (∀ n : Fin 3, State.reset.nonce[n] = 0) ∧ State.reset.ctrOutLo = 0 ∧
    State.reset.ctrOutHi = 0 ∧ (∀ n : Fin 6, State.reset.chainOut[n] = 0) ∧ (∀ n : Fin 192, State.reset.rk[n] = 0) ∧
    State.reset.keyed = false ∧ State.reset.busy = false ∧ State.reset.irq = false ∧
    (∀ P : Params, State.reset.hostRead P 0x00C = (0x0034504F, State.reset) ∧
      State.reset.hostRead P 0x088 = (paramWord P, State.reset))

/-- R350 and R61: when `rst_n` goes low, from every state, the unit takes its reset values, a pending command is
abandoned, and every byte of BUF is the free value of a new draw (that the values and the draw are taken at the
falling edge is the model's choice, log entries 1 and 5, and the number of the draw its own, log entry 11); while it is
low, a write transaction or a turn of the unit changes no register, and a read answers an unspecified word (log entry
2) and changes no register; when it goes high the values stay. That the turns wait in a list, which a reset leaves as
it is, and that the unit has a turn in reset, which changes nothing, is the model's choice (log entry 3). -/
def Obligations.ResetEvent : Prop :=
  (∀ s : State, s.rstLow = false → s.pinLow.rstLow = true ∧ s.pinLow.atResetValues ∧
    s.pinLow.bufEpoch = s.bufEpoch + 1 ∧
    (∀ o, s.pinLow.byteAt Config.params o = Config.params.bufDraw (s.bufEpoch + 1) o) ∧
    s.pinLow.events = s.events ∧ s.pinLow.readDraws = s.readDraws) ∧
  (∀ (s : State) (a : BusAddr) (d : Word), s.rstLow = true → s.atResetValues →
    (s.readTransaction Config.params a).atResetValues ∧ (s.writeTransaction Config.params a d).atResetValues ∧
    (s.readTransaction Config.params a).byteAt Config.params = s.byteAt Config.params ∧
    (s.writeTransaction Config.params a d).byteAt Config.params = s.byteAt Config.params ∧
    unitTurn s = .next s ∧ s.pinLow = s) ∧
  ∀ s : State, s.atResetValues → s.releaseReset.rstLow = false ∧ s.releaseReset.atResetValues ∧ s.irq = false

/-- What one step does (that the turns wait in a list is the model's choice, log entry 3). When the unit's turn is
next, out of reset and busy, the step completes the word in CMD; where that word decodes to a well-formed command, the
step is that command's meaning, on the state less the turn taken; when the unit's turn is next and it is idle or held
in reset, nothing but the turn is taken. When a host's turn is next (R64, R68), the step is that read or write on the
state less the turn, with the word read on `rdata` and none after a write (the model's choice, log entry 6); in reset
it changes nothing else (R350), but for the count of such reads (log entries 2 and 11). An edge of `rst_n` is the pin's
(log entry 5). -/
def Obligations.StepRunsDecodedCommand : Prop :=
  (∀ (s : State) (i : Instr), s.busy = true → s.rstLow = false → decode s.cmd = .ok i → i.wellFormed = true →
    (s.events = [] → step s = exec i s) ∧
    ∀ rest, s.events = .unit :: rest → step s = exec i { s with events := rest }) ∧
  (∀ s : State, s.busy = true → s.rstLow = false →
    (s.events = [] → step s = completeCommand s) ∧
    ∀ rest, s.events = .unit :: rest → step s = completeCommand { s with events := rest }) ∧
  (∀ s : State, s.busy = false ∨ s.rstLow = true →
    (s.events = [] → step s = .next s) ∧
    ∀ rest, s.events = .unit :: rest → step s = .next { s with events := rest }) ∧
  (∀ (s : State) (a : BusAddr) (d : Word) (rest : List Event), s.rstLow = false →
    (s.events = .read a :: rest →
      step s = .next { (State.hostRead Config.params a { s with events := rest }).2 with
        rdata := some (State.hostRead Config.params a { s with events := rest }).1 }) ∧
    (s.events = .write a d :: rest →
      step s = .next { State.hostWrite Config.params a d { s with events := rest } with rdata := none })) ∧
  (∀ (s : State) (a : BusAddr) (d : Word) (rest : List Event), s.rstLow = true →
    (s.events = .read a :: rest →
      ∃ w, step s = .next { s with events := rest, rdata := some w, readDraws := s.readDraws + 1 }) ∧
    (s.events = .write a d :: rest → step s = .next { s with events := rest, rdata := none })) ∧
  ∀ (s : State) (rest : List Event),
    (s.events = .rstAssert :: rest → step s = .next (State.pinLow { s with events := rest })) ∧
    (s.events = .rstRelease :: rest → step s = .next (State.releaseReset { s with events := rest }))

/-- R68, R95, R302, R306: no step of the machine stops, from any state at all (log entry 10; the turns are the model's,
log entry 3). -/
def Obligations.StepNeverStops : Prop := ∀ s : State, s.goesOn

/-- R60, R23, R24, R39 and 93 I7: every step from every state that has the invariant keeps it. That BUF is held in the
canonical form that the invariant states (offsets strictly rising, no entry equal to an unlisted read) is the model's
choice (log entry 12), and so are the list of turns (log entry 3) and the pin's edges by which R350's values are held
(log entry 5). -/
def Obligations.StepKeepsInvariant : Prop :=
  ∀ s t : State, s.Inv Config.params → step s = .next t → t.Inv Config.params

/-- The reset state has the invariant (with BUF's canonical form, the model's choice, log entry 12), whatever turns wait
(log entry 3) and whatever BUF was drawn (log entry 1). -/
def Obligations.ResetHasInvariant : Prop :=
  ∀ (es : List Event) (n : Nat), State.Inv Config.params { State.reset with events := es, bufEpoch := n }

/-- R16, R300 and R350: no command stays pending: it is completed, or a waiting turn of the reset pin abandons it. That
the unit's step follows once the waiting turns are taken is the model's form of weak fairness (its own choice, log
entry 3), and that the pin's falling edge is what abandons is its choice too (log entry 5): after one more step than
there are turns no command is pending and no turn waits. -/
def Obligations.PendingCommandCompletes : Prop :=
  ∀ s : State, s.Inv Config.params →
    ∃ t, Host.Core.run Sys2Proof.core (s.events.length + 1) s = .next t ∧ t.busy = false ∧ t.events = []

/-- R38 and R350: RK changes in a step only where KEYEXP or KEYCLR completes or the reset pin goes low. That reset
zeroes RK at the falling edge of the pin, and not at its rise, is the model's choice (log entry 5), and so is the list
of waiting turns (log entry 3). -/
def Obligations.RoundKeysChangeOnlyByKeyCommands : Prop :=
  ∀ s t : State, step s = .next t → t.rk ≠ s.rk →
    (s.enabled = true ∧ (decode s.cmd = .ok .keyexp ∨ decode s.cmd = .ok .keyclr) ∧
      (s.events = [] ∨ s.events.head? = some .unit)) ∨
    (s.events.head? = some .rstAssert ∧ s.rstLow = false ∧ t.rk = Vector.replicate 192 0)
end

