-- ==== Sys2Proof/Laws/State.lean ====
section
/-! SUPPORT. What each update of the state does to each field: one lemma per field per update, true by `rfl`, so
that no proof unfolds a record update. -/

namespace Sys2Proof.Machine

section accept
variable (s : State) (w : Word)
@[simp] theorem State.accept_cmd : (s.accept w).cmd = w := rfl
@[simp] theorem State.accept_busy : (s.accept w).busy = true := rfl
@[simp] theorem State.accept_done : (s.accept w).done = false := rfl
@[simp] theorem State.accept_err : (s.accept w).err = false := rfl
@[simp] theorem State.accept_accErr : (s.accept w).accErr = s.accErr := rfl
@[simp] theorem State.accept_errCode : (s.accept w).errCode = 0 := rfl
@[simp] theorem State.accept_ie : (s.accept w).ie = s.ie := rfl
@[simp] theorem State.accept_bufAddr : (s.accept w).bufAddr = s.bufAddr := rfl
@[simp] theorem State.accept_len : (s.accept w).len = s.len := rfl
@[simp] theorem State.accept_ctrLo : (s.accept w).ctrLo = s.ctrLo := rfl
@[simp] theorem State.accept_ctrHi : (s.accept w).ctrHi = s.ctrHi := rfl
@[simp] theorem State.accept_key : (s.accept w).key = s.key := rfl
@[simp] theorem State.accept_iv : (s.accept w).iv = s.iv := rfl
@[simp] theorem State.accept_nonce : (s.accept w).nonce = s.nonce := rfl
@[simp] theorem State.accept_ctrOutLo : (s.accept w).ctrOutLo = s.ctrOutLo := rfl
@[simp] theorem State.accept_ctrOutHi : (s.accept w).ctrOutHi = s.ctrOutHi := rfl
@[simp] theorem State.accept_chainOut : (s.accept w).chainOut = s.chainOut := rfl
@[simp] theorem State.accept_rk : (s.accept w).rk = s.rk := rfl
@[simp] theorem State.accept_keyed : (s.accept w).keyed = s.keyed := rfl
@[simp] theorem State.accept_buf : (s.accept w).buf = s.buf := rfl
@[simp] theorem State.accept_rstLow : (s.accept w).rstLow = s.rstLow := rfl
@[simp] theorem State.accept_rdata : (s.accept w).rdata = s.rdata := rfl
@[simp] theorem State.accept_events : (s.accept w).events = s.events := rfl
@[simp] theorem State.accept_bufEpoch : (s.accept w).bufEpoch = s.bufEpoch := rfl
@[simp] theorem State.accept_readDraws : (s.accept w).readDraws = s.readDraws := rfl
@[simp] theorem State.accept_unlisted (Q : Params) : (s.accept w).unlisted Q = s.unlisted Q := rfl
end accept

section succeed
variable (s : State)
@[simp] theorem State.succeed_cmd : (s.succeed).cmd = s.cmd := rfl
@[simp] theorem State.succeed_busy : (s.succeed).busy = false := rfl
@[simp] theorem State.succeed_done : (s.succeed).done = true := rfl
@[simp] theorem State.succeed_err : (s.succeed).err = s.err := rfl
@[simp] theorem State.succeed_accErr : (s.succeed).accErr = s.accErr := rfl
@[simp] theorem State.succeed_errCode : (s.succeed).errCode = s.errCode := rfl
@[simp] theorem State.succeed_ie : (s.succeed).ie = s.ie := rfl
@[simp] theorem State.succeed_bufAddr : (s.succeed).bufAddr = s.bufAddr := rfl
@[simp] theorem State.succeed_len : (s.succeed).len = s.len := rfl
@[simp] theorem State.succeed_ctrLo : (s.succeed).ctrLo = s.ctrLo := rfl
@[simp] theorem State.succeed_ctrHi : (s.succeed).ctrHi = s.ctrHi := rfl
@[simp] theorem State.succeed_key : (s.succeed).key = s.key := rfl
@[simp] theorem State.succeed_iv : (s.succeed).iv = s.iv := rfl
@[simp] theorem State.succeed_nonce : (s.succeed).nonce = s.nonce := rfl
@[simp] theorem State.succeed_ctrOutLo : (s.succeed).ctrOutLo = s.ctrOutLo := rfl
@[simp] theorem State.succeed_ctrOutHi : (s.succeed).ctrOutHi = s.ctrOutHi := rfl
@[simp] theorem State.succeed_chainOut : (s.succeed).chainOut = s.chainOut := rfl
@[simp] theorem State.succeed_rk : (s.succeed).rk = s.rk := rfl
@[simp] theorem State.succeed_keyed : (s.succeed).keyed = s.keyed := rfl
@[simp] theorem State.succeed_buf : (s.succeed).buf = s.buf := rfl
@[simp] theorem State.succeed_rstLow : (s.succeed).rstLow = s.rstLow := rfl
@[simp] theorem State.succeed_rdata : (s.succeed).rdata = s.rdata := rfl
@[simp] theorem State.succeed_events : (s.succeed).events = s.events := rfl
@[simp] theorem State.succeed_bufEpoch : (s.succeed).bufEpoch = s.bufEpoch := rfl
@[simp] theorem State.succeed_readDraws : (s.succeed).readDraws = s.readDraws := rfl
@[simp] theorem State.succeed_unlisted (Q : Params) : (s.succeed).unlisted Q = s.unlisted Q := rfl
end succeed

section reject
variable (s : State) (c : RejectCode)
@[simp] theorem State.reject_cmd : (s.reject c).cmd = s.cmd := rfl
@[simp] theorem State.reject_busy : (s.reject c).busy = false := rfl
@[simp] theorem State.reject_done : (s.reject c).done = true := rfl
@[simp] theorem State.reject_err : (s.reject c).err = true := rfl
@[simp] theorem State.reject_accErr : (s.reject c).accErr = s.accErr := rfl
@[simp] theorem State.reject_errCode : (s.reject c).errCode = c.code := rfl
@[simp] theorem State.reject_ie : (s.reject c).ie = s.ie := rfl
@[simp] theorem State.reject_bufAddr : (s.reject c).bufAddr = s.bufAddr := rfl
@[simp] theorem State.reject_len : (s.reject c).len = s.len := rfl
@[simp] theorem State.reject_ctrLo : (s.reject c).ctrLo = s.ctrLo := rfl
@[simp] theorem State.reject_ctrHi : (s.reject c).ctrHi = s.ctrHi := rfl
@[simp] theorem State.reject_key : (s.reject c).key = s.key := rfl
@[simp] theorem State.reject_iv : (s.reject c).iv = s.iv := rfl
@[simp] theorem State.reject_nonce : (s.reject c).nonce = s.nonce := rfl
@[simp] theorem State.reject_ctrOutLo : (s.reject c).ctrOutLo = s.ctrOutLo := rfl
@[simp] theorem State.reject_ctrOutHi : (s.reject c).ctrOutHi = s.ctrOutHi := rfl
@[simp] theorem State.reject_chainOut : (s.reject c).chainOut = s.chainOut := rfl
@[simp] theorem State.reject_rk : (s.reject c).rk = s.rk := rfl
@[simp] theorem State.reject_keyed : (s.reject c).keyed = s.keyed := rfl
@[simp] theorem State.reject_buf : (s.reject c).buf = s.buf := rfl
@[simp] theorem State.reject_rstLow : (s.reject c).rstLow = s.rstLow := rfl
@[simp] theorem State.reject_rdata : (s.reject c).rdata = s.rdata := rfl
@[simp] theorem State.reject_events : (s.reject c).events = s.events := rfl
@[simp] theorem State.reject_bufEpoch : (s.reject c).bufEpoch = s.bufEpoch := rfl
@[simp] theorem State.reject_readDraws : (s.reject c).readDraws = s.readDraws := rfl
@[simp] theorem State.reject_unlisted (Q : Params) : (s.reject c).unlisted Q = s.unlisted Q := rfl
end reject

section refuse
variable (s : State)
@[simp] theorem State.refuse_cmd : (s.refuse).cmd = s.cmd := rfl
@[simp] theorem State.refuse_busy : (s.refuse).busy = s.busy := rfl
@[simp] theorem State.refuse_done : (s.refuse).done = s.done := rfl
@[simp] theorem State.refuse_err : (s.refuse).err = s.err := rfl
@[simp] theorem State.refuse_accErr : (s.refuse).accErr = true := rfl
@[simp] theorem State.refuse_errCode : (s.refuse).errCode = s.errCode := rfl
@[simp] theorem State.refuse_ie : (s.refuse).ie = s.ie := rfl
@[simp] theorem State.refuse_bufAddr : (s.refuse).bufAddr = s.bufAddr := rfl
@[simp] theorem State.refuse_len : (s.refuse).len = s.len := rfl
@[simp] theorem State.refuse_ctrLo : (s.refuse).ctrLo = s.ctrLo := rfl
@[simp] theorem State.refuse_ctrHi : (s.refuse).ctrHi = s.ctrHi := rfl
@[simp] theorem State.refuse_key : (s.refuse).key = s.key := rfl
@[simp] theorem State.refuse_iv : (s.refuse).iv = s.iv := rfl
@[simp] theorem State.refuse_nonce : (s.refuse).nonce = s.nonce := rfl
@[simp] theorem State.refuse_ctrOutLo : (s.refuse).ctrOutLo = s.ctrOutLo := rfl
@[simp] theorem State.refuse_ctrOutHi : (s.refuse).ctrOutHi = s.ctrOutHi := rfl
@[simp] theorem State.refuse_chainOut : (s.refuse).chainOut = s.chainOut := rfl
@[simp] theorem State.refuse_rk : (s.refuse).rk = s.rk := rfl
@[simp] theorem State.refuse_keyed : (s.refuse).keyed = s.keyed := rfl
@[simp] theorem State.refuse_buf : (s.refuse).buf = s.buf := rfl
@[simp] theorem State.refuse_rstLow : (s.refuse).rstLow = s.rstLow := rfl
@[simp] theorem State.refuse_rdata : (s.refuse).rdata = s.rdata := rfl
@[simp] theorem State.refuse_events : (s.refuse).events = s.events := rfl
@[simp] theorem State.refuse_bufEpoch : (s.refuse).bufEpoch = s.bufEpoch := rfl
@[simp] theorem State.refuse_readDraws : (s.refuse).readDraws = s.readDraws := rfl
@[simp] theorem State.refuse_unlisted (Q : Params) : (s.refuse).unlisted Q = s.unlisted Q := rfl
end refuse

section writeStatus
variable (s : State) (d : Word)
@[simp] theorem State.writeStatus_cmd : (s.writeStatus d).cmd = s.cmd := rfl
@[simp] theorem State.writeStatus_busy : (s.writeStatus d).busy = s.busy := rfl
@[simp] theorem State.writeStatus_done : (s.writeStatus d).done = (s.done && !d.getLsbD 1) := rfl
@[simp] theorem State.writeStatus_err : (s.writeStatus d).err = (s.err && !d.getLsbD 2) := rfl
@[simp] theorem State.writeStatus_accErr : (s.writeStatus d).accErr = (s.accErr && !d.getLsbD 3) := rfl
@[simp] theorem State.writeStatus_errCode : (s.writeStatus d).errCode = if d.getLsbD 2 then 0 else s.errCode := rfl
@[simp] theorem State.writeStatus_ie : (s.writeStatus d).ie = s.ie := rfl
@[simp] theorem State.writeStatus_bufAddr : (s.writeStatus d).bufAddr = s.bufAddr := rfl
@[simp] theorem State.writeStatus_len : (s.writeStatus d).len = s.len := rfl
@[simp] theorem State.writeStatus_ctrLo : (s.writeStatus d).ctrLo = s.ctrLo := rfl
@[simp] theorem State.writeStatus_ctrHi : (s.writeStatus d).ctrHi = s.ctrHi := rfl
@[simp] theorem State.writeStatus_key : (s.writeStatus d).key = s.key := rfl
@[simp] theorem State.writeStatus_iv : (s.writeStatus d).iv = s.iv := rfl
@[simp] theorem State.writeStatus_nonce : (s.writeStatus d).nonce = s.nonce := rfl
@[simp] theorem State.writeStatus_ctrOutLo : (s.writeStatus d).ctrOutLo = s.ctrOutLo := rfl
@[simp] theorem State.writeStatus_ctrOutHi : (s.writeStatus d).ctrOutHi = s.ctrOutHi := rfl
@[simp] theorem State.writeStatus_chainOut : (s.writeStatus d).chainOut = s.chainOut := rfl
@[simp] theorem State.writeStatus_rk : (s.writeStatus d).rk = s.rk := rfl
@[simp] theorem State.writeStatus_keyed : (s.writeStatus d).keyed = s.keyed := rfl
@[simp] theorem State.writeStatus_buf : (s.writeStatus d).buf = s.buf := rfl
@[simp] theorem State.writeStatus_rstLow : (s.writeStatus d).rstLow = s.rstLow := rfl
@[simp] theorem State.writeStatus_rdata : (s.writeStatus d).rdata = s.rdata := rfl
@[simp] theorem State.writeStatus_events : (s.writeStatus d).events = s.events := rfl
@[simp] theorem State.writeStatus_bufEpoch : (s.writeStatus d).bufEpoch = s.bufEpoch := rfl
@[simp] theorem State.writeStatus_readDraws : (s.writeStatus d).readDraws = s.readDraws := rfl
@[simp] theorem State.writeStatus_unlisted (Q : Params) : (s.writeStatus d).unlisted Q = s.unlisted Q := rfl
end writeStatus

section writeCtrl
variable (s : State) (d : Word)
@[simp] theorem State.writeCtrl_cmd : (s.writeCtrl d).cmd = s.cmd := rfl
@[simp] theorem State.writeCtrl_busy : (s.writeCtrl d).busy = s.busy := rfl
@[simp] theorem State.writeCtrl_done : (s.writeCtrl d).done = s.done := rfl
@[simp] theorem State.writeCtrl_err : (s.writeCtrl d).err = s.err := rfl
@[simp] theorem State.writeCtrl_accErr : (s.writeCtrl d).accErr = s.accErr := rfl
@[simp] theorem State.writeCtrl_errCode : (s.writeCtrl d).errCode = s.errCode := rfl
@[simp] theorem State.writeCtrl_ie : (s.writeCtrl d).ie = d.getLsbD 0 := rfl
@[simp] theorem State.writeCtrl_bufAddr : (s.writeCtrl d).bufAddr = s.bufAddr := rfl
@[simp] theorem State.writeCtrl_len : (s.writeCtrl d).len = s.len := rfl
@[simp] theorem State.writeCtrl_ctrLo : (s.writeCtrl d).ctrLo = s.ctrLo := rfl
@[simp] theorem State.writeCtrl_ctrHi : (s.writeCtrl d).ctrHi = s.ctrHi := rfl
@[simp] theorem State.writeCtrl_key : (s.writeCtrl d).key = s.key := rfl
@[simp] theorem State.writeCtrl_iv : (s.writeCtrl d).iv = s.iv := rfl
@[simp] theorem State.writeCtrl_nonce : (s.writeCtrl d).nonce = s.nonce := rfl
@[simp] theorem State.writeCtrl_ctrOutLo : (s.writeCtrl d).ctrOutLo = s.ctrOutLo := rfl
@[simp] theorem State.writeCtrl_ctrOutHi : (s.writeCtrl d).ctrOutHi = s.ctrOutHi := rfl
@[simp] theorem State.writeCtrl_chainOut : (s.writeCtrl d).chainOut = s.chainOut := rfl
@[simp] theorem State.writeCtrl_rk : (s.writeCtrl d).rk = s.rk := rfl
@[simp] theorem State.writeCtrl_keyed : (s.writeCtrl d).keyed = s.keyed := rfl
@[simp] theorem State.writeCtrl_buf : (s.writeCtrl d).buf = s.buf := rfl
@[simp] theorem State.writeCtrl_rstLow : (s.writeCtrl d).rstLow = s.rstLow := rfl
@[simp] theorem State.writeCtrl_rdata : (s.writeCtrl d).rdata = s.rdata := rfl
@[simp] theorem State.writeCtrl_events : (s.writeCtrl d).events = s.events := rfl
@[simp] theorem State.writeCtrl_bufEpoch : (s.writeCtrl d).bufEpoch = s.bufEpoch := rfl
@[simp] theorem State.writeCtrl_readDraws : (s.writeCtrl d).readDraws = s.readDraws := rfl
@[simp] theorem State.writeCtrl_unlisted (Q : Params) : (s.writeCtrl d).unlisted Q = s.unlisted Q := rfl
end writeCtrl

section memWrite
variable (s : State) {n : Nat} (P : Params) (a : Nat) (v : Vector Byte n)
@[simp] theorem State.memWrite_cmd : (s.memWrite P a v).cmd = s.cmd := rfl
@[simp] theorem State.memWrite_busy : (s.memWrite P a v).busy = s.busy := rfl
@[simp] theorem State.memWrite_done : (s.memWrite P a v).done = s.done := rfl
@[simp] theorem State.memWrite_err : (s.memWrite P a v).err = s.err := rfl
@[simp] theorem State.memWrite_accErr : (s.memWrite P a v).accErr = s.accErr := rfl
@[simp] theorem State.memWrite_errCode : (s.memWrite P a v).errCode = s.errCode := rfl
@[simp] theorem State.memWrite_ie : (s.memWrite P a v).ie = s.ie := rfl
@[simp] theorem State.memWrite_bufAddr : (s.memWrite P a v).bufAddr = s.bufAddr := rfl
@[simp] theorem State.memWrite_len : (s.memWrite P a v).len = s.len := rfl
@[simp] theorem State.memWrite_ctrLo : (s.memWrite P a v).ctrLo = s.ctrLo := rfl
@[simp] theorem State.memWrite_ctrHi : (s.memWrite P a v).ctrHi = s.ctrHi := rfl
@[simp] theorem State.memWrite_key : (s.memWrite P a v).key = s.key := rfl
@[simp] theorem State.memWrite_iv : (s.memWrite P a v).iv = s.iv := rfl
@[simp] theorem State.memWrite_nonce : (s.memWrite P a v).nonce = s.nonce := rfl
@[simp] theorem State.memWrite_ctrOutLo : (s.memWrite P a v).ctrOutLo = s.ctrOutLo := rfl
@[simp] theorem State.memWrite_ctrOutHi : (s.memWrite P a v).ctrOutHi = s.ctrOutHi := rfl
@[simp] theorem State.memWrite_chainOut : (s.memWrite P a v).chainOut = s.chainOut := rfl
@[simp] theorem State.memWrite_rk : (s.memWrite P a v).rk = s.rk := rfl
@[simp] theorem State.memWrite_keyed : (s.memWrite P a v).keyed = s.keyed := rfl
@[simp] theorem State.memWrite_buf : (s.memWrite P a v).buf = Memory.writeN (s.unlisted P) s.buf a v := rfl
@[simp] theorem State.memWrite_rstLow : (s.memWrite P a v).rstLow = s.rstLow := rfl
@[simp] theorem State.memWrite_rdata : (s.memWrite P a v).rdata = s.rdata := rfl
@[simp] theorem State.memWrite_events : (s.memWrite P a v).events = s.events := rfl
@[simp] theorem State.memWrite_bufEpoch : (s.memWrite P a v).bufEpoch = s.bufEpoch := rfl
@[simp] theorem State.memWrite_readDraws : (s.memWrite P a v).readDraws = s.readDraws := rfl
@[simp] theorem State.memWrite_unlisted (Q : Params) : (s.memWrite P a v).unlisted Q = s.unlisted Q := rfl
end memWrite

section clearKey
variable (s : State)
@[simp] theorem State.clearKey_cmd : (s.clearKey).cmd = s.cmd := rfl
@[simp] theorem State.clearKey_busy : (s.clearKey).busy = s.busy := rfl
@[simp] theorem State.clearKey_done : (s.clearKey).done = s.done := rfl
@[simp] theorem State.clearKey_err : (s.clearKey).err = s.err := rfl
@[simp] theorem State.clearKey_accErr : (s.clearKey).accErr = s.accErr := rfl
@[simp] theorem State.clearKey_errCode : (s.clearKey).errCode = s.errCode := rfl
@[simp] theorem State.clearKey_ie : (s.clearKey).ie = s.ie := rfl
@[simp] theorem State.clearKey_bufAddr : (s.clearKey).bufAddr = s.bufAddr := rfl
@[simp] theorem State.clearKey_len : (s.clearKey).len = s.len := rfl
@[simp] theorem State.clearKey_ctrLo : (s.clearKey).ctrLo = s.ctrLo := rfl
@[simp] theorem State.clearKey_ctrHi : (s.clearKey).ctrHi = s.ctrHi := rfl
@[simp] theorem State.clearKey_key : (s.clearKey).key = Vector.replicate 8 0 := rfl
@[simp] theorem State.clearKey_iv : (s.clearKey).iv = s.iv := rfl
@[simp] theorem State.clearKey_nonce : (s.clearKey).nonce = s.nonce := rfl
@[simp] theorem State.clearKey_ctrOutLo : (s.clearKey).ctrOutLo = s.ctrOutLo := rfl
@[simp] theorem State.clearKey_ctrOutHi : (s.clearKey).ctrOutHi = s.ctrOutHi := rfl
@[simp] theorem State.clearKey_chainOut : (s.clearKey).chainOut = s.chainOut := rfl
@[simp] theorem State.clearKey_rk : (s.clearKey).rk = s.rk := rfl
@[simp] theorem State.clearKey_keyed : (s.clearKey).keyed = s.keyed := rfl
@[simp] theorem State.clearKey_buf : (s.clearKey).buf = s.buf := rfl
@[simp] theorem State.clearKey_rstLow : (s.clearKey).rstLow = s.rstLow := rfl
@[simp] theorem State.clearKey_rdata : (s.clearKey).rdata = s.rdata := rfl
@[simp] theorem State.clearKey_events : (s.clearKey).events = s.events := rfl
@[simp] theorem State.clearKey_bufEpoch : (s.clearKey).bufEpoch = s.bufEpoch := rfl
@[simp] theorem State.clearKey_readDraws : (s.clearKey).readDraws = s.readDraws := rfl
@[simp] theorem State.clearKey_unlisted (Q : Params) : (s.clearKey).unlisted Q = s.unlisted Q := rfl
end clearKey

section setContext
variable (s : State) (r : RoundKeys) (k : Bool)
@[simp] theorem State.setContext_cmd : (s.setContext r k).cmd = s.cmd := rfl
@[simp] theorem State.setContext_busy : (s.setContext r k).busy = s.busy := rfl
@[simp] theorem State.setContext_done : (s.setContext r k).done = s.done := rfl
@[simp] theorem State.setContext_err : (s.setContext r k).err = s.err := rfl
@[simp] theorem State.setContext_accErr : (s.setContext r k).accErr = s.accErr := rfl
@[simp] theorem State.setContext_errCode : (s.setContext r k).errCode = s.errCode := rfl
@[simp] theorem State.setContext_ie : (s.setContext r k).ie = s.ie := rfl
@[simp] theorem State.setContext_bufAddr : (s.setContext r k).bufAddr = s.bufAddr := rfl
@[simp] theorem State.setContext_len : (s.setContext r k).len = s.len := rfl
@[simp] theorem State.setContext_ctrLo : (s.setContext r k).ctrLo = s.ctrLo := rfl
@[simp] theorem State.setContext_ctrHi : (s.setContext r k).ctrHi = s.ctrHi := rfl
@[simp] theorem State.setContext_key : (s.setContext r k).key = s.key := rfl
@[simp] theorem State.setContext_iv : (s.setContext r k).iv = s.iv := rfl
@[simp] theorem State.setContext_nonce : (s.setContext r k).nonce = s.nonce := rfl
@[simp] theorem State.setContext_ctrOutLo : (s.setContext r k).ctrOutLo = s.ctrOutLo := rfl
@[simp] theorem State.setContext_ctrOutHi : (s.setContext r k).ctrOutHi = s.ctrOutHi := rfl
@[simp] theorem State.setContext_chainOut : (s.setContext r k).chainOut = s.chainOut := rfl
@[simp] theorem State.setContext_rk : (s.setContext r k).rk = r := rfl
@[simp] theorem State.setContext_keyed : (s.setContext r k).keyed = k := rfl
@[simp] theorem State.setContext_buf : (s.setContext r k).buf = s.buf := rfl
@[simp] theorem State.setContext_rstLow : (s.setContext r k).rstLow = s.rstLow := rfl
@[simp] theorem State.setContext_rdata : (s.setContext r k).rdata = s.rdata := rfl
@[simp] theorem State.setContext_events : (s.setContext r k).events = s.events := rfl
@[simp] theorem State.setContext_bufEpoch : (s.setContext r k).bufEpoch = s.bufEpoch := rfl
@[simp] theorem State.setContext_readDraws : (s.setContext r k).readDraws = s.readDraws := rfl
@[simp] theorem State.setContext_unlisted (Q : Params) : (s.setContext r k).unlisted Q = s.unlisted Q := rfl
end setContext

section setChainOut
variable (s : State) (c : Block)
@[simp] theorem State.setChainOut_cmd : (s.setChainOut c).cmd = s.cmd := rfl
@[simp] theorem State.setChainOut_busy : (s.setChainOut c).busy = s.busy := rfl
@[simp] theorem State.setChainOut_done : (s.setChainOut c).done = s.done := rfl
@[simp] theorem State.setChainOut_err : (s.setChainOut c).err = s.err := rfl
@[simp] theorem State.setChainOut_accErr : (s.setChainOut c).accErr = s.accErr := rfl
@[simp] theorem State.setChainOut_errCode : (s.setChainOut c).errCode = s.errCode := rfl
@[simp] theorem State.setChainOut_ie : (s.setChainOut c).ie = s.ie := rfl
@[simp] theorem State.setChainOut_bufAddr : (s.setChainOut c).bufAddr = s.bufAddr := rfl
@[simp] theorem State.setChainOut_len : (s.setChainOut c).len = s.len := rfl
@[simp] theorem State.setChainOut_ctrLo : (s.setChainOut c).ctrLo = s.ctrLo := rfl
@[simp] theorem State.setChainOut_ctrHi : (s.setChainOut c).ctrHi = s.ctrHi := rfl
@[simp] theorem State.setChainOut_key : (s.setChainOut c).key = s.key := rfl
@[simp] theorem State.setChainOut_iv : (s.setChainOut c).iv = s.iv := rfl
@[simp] theorem State.setChainOut_nonce : (s.setChainOut c).nonce = s.nonce := rfl
@[simp] theorem State.setChainOut_ctrOutLo : (s.setChainOut c).ctrOutLo = s.ctrOutLo := rfl
@[simp] theorem State.setChainOut_ctrOutHi : (s.setChainOut c).ctrOutHi = s.ctrOutHi := rfl
@[simp] theorem State.setChainOut_chainOut : (s.setChainOut c).chainOut = wordsOfBlock c := rfl
@[simp] theorem State.setChainOut_rk : (s.setChainOut c).rk = s.rk := rfl
@[simp] theorem State.setChainOut_keyed : (s.setChainOut c).keyed = s.keyed := rfl
@[simp] theorem State.setChainOut_buf : (s.setChainOut c).buf = s.buf := rfl
@[simp] theorem State.setChainOut_rstLow : (s.setChainOut c).rstLow = s.rstLow := rfl
@[simp] theorem State.setChainOut_rdata : (s.setChainOut c).rdata = s.rdata := rfl
@[simp] theorem State.setChainOut_events : (s.setChainOut c).events = s.events := rfl
@[simp] theorem State.setChainOut_bufEpoch : (s.setChainOut c).bufEpoch = s.bufEpoch := rfl
@[simp] theorem State.setChainOut_readDraws : (s.setChainOut c).readDraws = s.readDraws := rfl
@[simp] theorem State.setChainOut_unlisted (Q : Params) : (s.setChainOut c).unlisted Q = s.unlisted Q := rfl
end setChainOut

section setCtrOut
variable (s : State) (c : BitVec 64)
@[simp] theorem State.setCtrOut_cmd : (s.setCtrOut c).cmd = s.cmd := rfl
@[simp] theorem State.setCtrOut_busy : (s.setCtrOut c).busy = s.busy := rfl
@[simp] theorem State.setCtrOut_done : (s.setCtrOut c).done = s.done := rfl
@[simp] theorem State.setCtrOut_err : (s.setCtrOut c).err = s.err := rfl
@[simp] theorem State.setCtrOut_accErr : (s.setCtrOut c).accErr = s.accErr := rfl
@[simp] theorem State.setCtrOut_errCode : (s.setCtrOut c).errCode = s.errCode := rfl
@[simp] theorem State.setCtrOut_ie : (s.setCtrOut c).ie = s.ie := rfl
@[simp] theorem State.setCtrOut_bufAddr : (s.setCtrOut c).bufAddr = s.bufAddr := rfl
@[simp] theorem State.setCtrOut_len : (s.setCtrOut c).len = s.len := rfl
@[simp] theorem State.setCtrOut_ctrLo : (s.setCtrOut c).ctrLo = s.ctrLo := rfl
@[simp] theorem State.setCtrOut_ctrHi : (s.setCtrOut c).ctrHi = s.ctrHi := rfl
@[simp] theorem State.setCtrOut_key : (s.setCtrOut c).key = s.key := rfl
@[simp] theorem State.setCtrOut_iv : (s.setCtrOut c).iv = s.iv := rfl
@[simp] theorem State.setCtrOut_nonce : (s.setCtrOut c).nonce = s.nonce := rfl
@[simp] theorem State.setCtrOut_ctrOutLo : (s.setCtrOut c).ctrOutLo = c.extractLsb' 0 32 := rfl
@[simp] theorem State.setCtrOut_ctrOutHi : (s.setCtrOut c).ctrOutHi = c.extractLsb' 32 32 := rfl
@[simp] theorem State.setCtrOut_chainOut : (s.setCtrOut c).chainOut = s.chainOut := rfl
@[simp] theorem State.setCtrOut_rk : (s.setCtrOut c).rk = s.rk := rfl
@[simp] theorem State.setCtrOut_keyed : (s.setCtrOut c).keyed = s.keyed := rfl
@[simp] theorem State.setCtrOut_buf : (s.setCtrOut c).buf = s.buf := rfl
@[simp] theorem State.setCtrOut_rstLow : (s.setCtrOut c).rstLow = s.rstLow := rfl
@[simp] theorem State.setCtrOut_rdata : (s.setCtrOut c).rdata = s.rdata := rfl
@[simp] theorem State.setCtrOut_events : (s.setCtrOut c).events = s.events := rfl
@[simp] theorem State.setCtrOut_bufEpoch : (s.setCtrOut c).bufEpoch = s.bufEpoch := rfl
@[simp] theorem State.setCtrOut_readDraws : (s.setCtrOut c).readDraws = s.readDraws := rfl
@[simp] theorem State.setCtrOut_unlisted (Q : Params) : (s.setCtrOut c).unlisted Q = s.unlisted Q := rfl
end setCtrOut

section assertReset
variable (s : State)
@[simp] theorem State.assertReset_cmd : (s.assertReset).cmd = State.reset.cmd := rfl
@[simp] theorem State.assertReset_busy : (s.assertReset).busy = State.reset.busy := rfl
@[simp] theorem State.assertReset_done : (s.assertReset).done = State.reset.done := rfl
@[simp] theorem State.assertReset_err : (s.assertReset).err = State.reset.err := rfl
@[simp] theorem State.assertReset_accErr : (s.assertReset).accErr = State.reset.accErr := rfl
@[simp] theorem State.assertReset_errCode : (s.assertReset).errCode = State.reset.errCode := rfl
@[simp] theorem State.assertReset_ie : (s.assertReset).ie = State.reset.ie := rfl
@[simp] theorem State.assertReset_bufAddr : (s.assertReset).bufAddr = State.reset.bufAddr := rfl
@[simp] theorem State.assertReset_len : (s.assertReset).len = State.reset.len := rfl
@[simp] theorem State.assertReset_ctrLo : (s.assertReset).ctrLo = State.reset.ctrLo := rfl
@[simp] theorem State.assertReset_ctrHi : (s.assertReset).ctrHi = State.reset.ctrHi := rfl
@[simp] theorem State.assertReset_key : (s.assertReset).key = State.reset.key := rfl
@[simp] theorem State.assertReset_iv : (s.assertReset).iv = State.reset.iv := rfl
@[simp] theorem State.assertReset_nonce : (s.assertReset).nonce = State.reset.nonce := rfl
@[simp] theorem State.assertReset_ctrOutLo : (s.assertReset).ctrOutLo = State.reset.ctrOutLo := rfl
@[simp] theorem State.assertReset_ctrOutHi : (s.assertReset).ctrOutHi = State.reset.ctrOutHi := rfl
@[simp] theorem State.assertReset_chainOut : (s.assertReset).chainOut = State.reset.chainOut := rfl
@[simp] theorem State.assertReset_rk : (s.assertReset).rk = State.reset.rk := rfl
@[simp] theorem State.assertReset_keyed : (s.assertReset).keyed = State.reset.keyed := rfl
@[simp] theorem State.assertReset_buf : (s.assertReset).buf = State.reset.buf := rfl
@[simp] theorem State.assertReset_rstLow : (s.assertReset).rstLow = true := rfl
@[simp] theorem State.assertReset_rdata : (s.assertReset).rdata = State.reset.rdata := rfl
@[simp] theorem State.assertReset_events : (s.assertReset).events = s.events := rfl
@[simp] theorem State.assertReset_bufEpoch : (s.assertReset).bufEpoch = s.bufEpoch + 1 := rfl
@[simp] theorem State.assertReset_readDraws : (s.assertReset).readDraws = s.readDraws := rfl
end assertReset

section releaseReset
variable (s : State)
@[simp] theorem State.releaseReset_cmd : (s.releaseReset).cmd = s.cmd := rfl
@[simp] theorem State.releaseReset_busy : (s.releaseReset).busy = s.busy := rfl
@[simp] theorem State.releaseReset_done : (s.releaseReset).done = s.done := rfl
@[simp] theorem State.releaseReset_err : (s.releaseReset).err = s.err := rfl
@[simp] theorem State.releaseReset_accErr : (s.releaseReset).accErr = s.accErr := rfl
@[simp] theorem State.releaseReset_errCode : (s.releaseReset).errCode = s.errCode := rfl
@[simp] theorem State.releaseReset_ie : (s.releaseReset).ie = s.ie := rfl
@[simp] theorem State.releaseReset_bufAddr : (s.releaseReset).bufAddr = s.bufAddr := rfl
@[simp] theorem State.releaseReset_len : (s.releaseReset).len = s.len := rfl
@[simp] theorem State.releaseReset_ctrLo : (s.releaseReset).ctrLo = s.ctrLo := rfl
@[simp] theorem State.releaseReset_ctrHi : (s.releaseReset).ctrHi = s.ctrHi := rfl
@[simp] theorem State.releaseReset_key : (s.releaseReset).key = s.key := rfl
@[simp] theorem State.releaseReset_iv : (s.releaseReset).iv = s.iv := rfl
@[simp] theorem State.releaseReset_nonce : (s.releaseReset).nonce = s.nonce := rfl
@[simp] theorem State.releaseReset_ctrOutLo : (s.releaseReset).ctrOutLo = s.ctrOutLo := rfl
@[simp] theorem State.releaseReset_ctrOutHi : (s.releaseReset).ctrOutHi = s.ctrOutHi := rfl
@[simp] theorem State.releaseReset_chainOut : (s.releaseReset).chainOut = s.chainOut := rfl
@[simp] theorem State.releaseReset_rk : (s.releaseReset).rk = s.rk := rfl
@[simp] theorem State.releaseReset_keyed : (s.releaseReset).keyed = s.keyed := rfl
@[simp] theorem State.releaseReset_buf : (s.releaseReset).buf = s.buf := rfl
@[simp] theorem State.releaseReset_rstLow : (s.releaseReset).rstLow = false := rfl
@[simp] theorem State.releaseReset_rdata : (s.releaseReset).rdata = s.rdata := rfl
@[simp] theorem State.releaseReset_events : (s.releaseReset).events = s.events := rfl
@[simp] theorem State.releaseReset_bufEpoch : (s.releaseReset).bufEpoch = s.bufEpoch := rfl
@[simp] theorem State.releaseReset_readDraws : (s.releaseReset).readDraws = s.readDraws := rfl
@[simp] theorem State.releaseReset_unlisted (Q : Params) : (s.releaseReset).unlisted Q = s.unlisted Q := rfl
end releaseReset

section pend
variable (s : State) (w : Word)
@[simp] theorem State.pend_cmd : (s.pend w).cmd = w := rfl
@[simp] theorem State.pend_busy : (s.pend w).busy = true := rfl
@[simp] theorem State.pend_done : (s.pend w).done = false := rfl
@[simp] theorem State.pend_err : (s.pend w).err = false := rfl
@[simp] theorem State.pend_accErr : (s.pend w).accErr = s.accErr := rfl
@[simp] theorem State.pend_errCode : (s.pend w).errCode = 0 := rfl
@[simp] theorem State.pend_ie : (s.pend w).ie = s.ie := rfl
@[simp] theorem State.pend_bufAddr : (s.pend w).bufAddr = s.bufAddr := rfl
@[simp] theorem State.pend_len : (s.pend w).len = s.len := rfl
@[simp] theorem State.pend_ctrLo : (s.pend w).ctrLo = s.ctrLo := rfl
@[simp] theorem State.pend_ctrHi : (s.pend w).ctrHi = s.ctrHi := rfl
@[simp] theorem State.pend_key : (s.pend w).key = s.key := rfl
@[simp] theorem State.pend_iv : (s.pend w).iv = s.iv := rfl
@[simp] theorem State.pend_nonce : (s.pend w).nonce = s.nonce := rfl
@[simp] theorem State.pend_ctrOutLo : (s.pend w).ctrOutLo = s.ctrOutLo := rfl
@[simp] theorem State.pend_ctrOutHi : (s.pend w).ctrOutHi = s.ctrOutHi := rfl
@[simp] theorem State.pend_chainOut : (s.pend w).chainOut = s.chainOut := rfl
@[simp] theorem State.pend_rk : (s.pend w).rk = s.rk := rfl
@[simp] theorem State.pend_keyed : (s.pend w).keyed = s.keyed := rfl
@[simp] theorem State.pend_buf : (s.pend w).buf = s.buf := rfl
@[simp] theorem State.pend_rstLow : (s.pend w).rstLow = false := rfl
@[simp] theorem State.pend_rdata : (s.pend w).rdata = s.rdata := rfl
@[simp] theorem State.pend_events : (s.pend w).events = [] := rfl
@[simp] theorem State.pend_bufEpoch : (s.pend w).bufEpoch = s.bufEpoch := rfl
@[simp] theorem State.pend_readDraws : (s.pend w).readDraws = s.readDraws := rfl
@[simp] theorem State.pend_unlisted (Q : Params) : (s.pend w).unlisted Q = s.unlisted Q := rfl
end pend

end Sys2Proof.Machine
end

