-- ==== Sys2Proof/Laws/Bus.lean ====
section
/-! SUPPORT. What one bus access, one turn and one step can do, each said once. -/

namespace Sys2Proof.Machine

theorem aligned_iff (a : BusAddr) : aligned a = true ↔ a.toNat % 4 = 0 := by
  simp only [aligned, beq_iff_eq, ← BitVec.toNat_inj, BitVec.extractLsb'_toNat]
  simp

/-- When a read is refused (R65, R67, R37). -/
theorem readRefused_iff (P : Params) (s : State) (a : BusAddr) :
    s.readRefused P a = true ↔ a.toNat % 4 ≠ 0 ∨
      (s.busy = true ∧ (targetOf P a.toNat).readableBusy = false) ∨ targetOf P a.toNat = .reserved := by
  have h := aligned_iff a
  simp only [State.readRefused, Bool.or_eq_true, Bool.not_eq_true', Bool.and_eq_true, beq_iff_eq, ← h, or_assoc,
    ne_eq, Bool.not_eq_true]

/-- When a write is refused (R65, R67, R37). -/
theorem writeRefused_iff (P : Params) (s : State) (a : BusAddr) :
    s.writeRefused P a = true ↔ a.toNat % 4 ≠ 0 ∨
      (s.busy = true ∧ (targetOf P a.toNat).writableBusy = false) ∨ targetOf P a.toNat = .reserved := by
  have h := aligned_iff a
  simp only [State.writeRefused, Bool.or_eq_true, Bool.not_eq_true', Bool.and_eq_true, beq_iff_eq, ← h, or_assoc,
    ne_eq, Bool.not_eq_true]

theorem hostRead_refused {P : Params} {s : State} {a : BusAddr} (h : s.readRefused P a = true) :
    s.hostRead P a = (0, s.refuse) := by simp [State.hostRead, h]

theorem hostRead_accepted {P : Params} {s : State} {a : BusAddr} (h : s.readRefused P a = false) :
    s.hostRead P a = (s.readTarget P (targetOf P a.toNat), s) := by simp [State.hostRead, h]

theorem hostWrite_refused {P : Params} {s : State} {a : BusAddr} (d : Word) (h : s.writeRefused P a = true) :
    s.hostWrite P a d = s.refuse := by simp [State.hostWrite, h]

theorem hostWrite_accepted {P : Params} {s : State} {a : BusAddr} (d : Word) (h : s.writeRefused P a = false) :
    s.hostWrite P a d = s.writeTarget P d (targetOf P a.toNat) := by simp [State.hostWrite, h]

/-- Everything a turn of the unit can do: nothing while it is not enabled, else the decoded command, or the
rejection of a word that is none. -/
theorem unitTurn_cases {s t : State} (h : unitTurn s = .next t) :
    (s.enabled = false ∧ t = s) ∨
    (s.enabled = true ∧ ∃ i, decode s.cmd = .ok i ∧ exec i s = .next t) ∨
    (s.enabled = true ∧ (∃ e, decode s.cmd = .error e) ∧ t = s.reject .illegal) := by
  unfold unitTurn at h
  split at h
  · rename_i he
    unfold completeCommand at h
    split at h
    · rename_i i hi
      exact .inr (.inl ⟨he, i, hi, h⟩)
    · rename_i e hi
      cases h
      exact .inr (.inr ⟨he, ⟨e, hi⟩, rfl⟩)
  · rename_i he
    cases h
    exact .inl ⟨by simpa using he, rfl⟩

/-- Everything a step can do: the unit's turn when no turn waits, else the first waiting turn. -/
theorem step_cases {s t : State} (h : step s = .next t) :
    (s.events = [] ∧ unitTurn s = .next t) ∨
    ∃ e rest, s.events = e :: rest ∧
      ((∃ a, e = .read a ∧ t = State.readTransaction Config.params a { s with events := rest }) ∨
       (∃ a d, e = .write a d ∧ t = State.writeTransaction Config.params a d { s with events := rest }) ∨
       (e = .unit ∧ unitTurn { s with events := rest } = .next t) ∨
       (e = .rstAssert ∧ t = State.pinLow { s with events := rest }) ∨
       (e = .rstRelease ∧ t = State.releaseReset { s with events := rest })) := by
  unfold step nextTurn at h
  split at h
  · rename_i he
    exact .inl ⟨he, h⟩
  · rename_i e rest he
    refine .inr ⟨e, rest, he, ?_⟩
    cases e with
    | read a => cases h; exact .inl ⟨a, rfl, rfl⟩
    | write a d => cases h; exact .inr (.inl ⟨a, d, rfl, rfl⟩)
    | unit => exact .inr (.inr (.inl ⟨rfl, h⟩))
    | rstAssert => cases h; exact .inr (.inr (.inr (.inl ⟨rfl, rfl⟩)))
    | rstRelease => cases h; exact .inr (.inr (.inr (.inr ⟨rfl, rfl⟩)))

/-- The offset of BUF that a window address names (R60). -/
theorem targetOf_buf {P : Params} {o : Nat} (h : o + 4 ≤ P.bufBytes) : targetOf P (0x1000 + o) = .buf o := by
  have e : 0x1000 + o - 0x1000 = o := by omega
  simp only [targetOf, e]
  repeat first
    | rw [if_pos (by omega)]
    | rw [if_neg (by omega)]
    | rw [dif_neg (by omega)]

/-- A branch of the map that names another target is not the one taken. -/
theorem ite_target_buf {c : Prop} [Decidable c] {t u : Target} {o : Nat} (h : (if c then t else u) = .buf o)
    (ht : t ≠ .buf o) : u = .buf o := by
  split at h
  · exact absurd h ht
  · exact h

theorem dite_target_buf {c : Prop} [Decidable c] {t : c → Target} {u : Target} {o : Nat}
    (h : (if h : c then t h else u) = .buf o) (ht : ∀ h, t h ≠ .buf o) : u = .buf o := by
  split at h
  · exact absurd h (ht _)
  · exact h

/-- Only a word that lies whole in the window is a word of BUF (R60, R62). -/
theorem targetOf_eq_buf {P : Params} {a o : Nat} (h : targetOf P a = .buf o) :
    a = 0x1000 + o ∧ o + 4 ≤ P.bufBytes := by
  unfold targetOf at h
  iterate 8 replace h := ite_target_buf h Target.noConfusion
  iterate 3 replace h := dite_target_buf h fun _ => Target.noConfusion
  iterate 2 replace h := ite_target_buf h Target.noConfusion
  replace h := dite_target_buf h fun _ => Target.noConfusion
  replace h := ite_target_buf h Target.noConfusion
  by_cases hc : 0x1000 ≤ a ∧ a - 0x1000 + 4 ≤ P.bufBytes
  · rw [if_pos hc] at h
    injection h with h
    omega
  · rw [if_neg hc] at h
    exact Target.noConfusion h

end Sys2Proof.Machine
end

