-- ==== Sys2Proof/Laws/Memory.lean ====
section
/-! SUPPORT. The laws of BUF: a write is read back and leaves every other offset alone, for lists of any form;
every operation keeps the canonical form; and in that form equal contents are equal data. -/

namespace Sys2Proof.Machine

variable {u : Nat → Byte}

@[simp] theorem Memory.read_nil (a : Nat) : Memory.read u [] a = u a := rfl

theorem Memory.read_erase (m : Memory) (a a' : Nat) :
    Memory.read u (m.erase a) a' = if a' = a then u a' else Memory.read u m a' := by
  induction m with
  | nil => simp [Memory.erase]
  | cons c m ih =>
    simp only [Memory.erase] at ih
    by_cases h : c.1 = a
    · simp only [Memory.erase, List.filter_cons, h, bne_self_eq_false, Bool.false_eq_true, if_false, ih,
        Memory.read]
      split
      · rfl
      · rw [if_neg]; omega
    · have hb : (c.1 != a) = true := by simpa using h
      simp only [Memory.erase, List.filter_cons, hb, if_true, Memory.read, ih]
      by_cases h' : c.1 = a'
      · rw [if_pos h', if_pos h', if_neg]; omega
      · simp [h']

theorem Memory.read_insert (m : Memory) (a a' : Nat) (b : Byte) (h : ∀ c ∈ m, c.1 ≠ a) :
    Memory.read u (Memory.insert a b m) a' = if a' = a then b else Memory.read u m a' := by
  induction m with
  | nil => simp only [Memory.insert, Memory.read]; simp only [eq_comm]
  | cons c m ih =>
    have hc : c.1 ≠ a := h c (by simp)
    have ih := ih fun d hd => h d (by simp [hd])
    simp only [Memory.insert]
    split
    · simp only [Memory.read]; simp only [eq_comm]
    · simp only [Memory.read, ih]
      by_cases h' : c.1 = a'
      · rw [if_pos h', if_pos h', if_neg]; omega
      · simp [h']

theorem Memory.ne_of_mem_erase {m : Memory} {a : Nat} {c : Host.Cell} (h : c ∈ m.erase a) : c.1 ≠ a := by
  simpa using (List.mem_filter.mp h).2

/-- Read after write: the byte written, and every other byte as it was. -/
theorem Memory.read_write (m : Memory) (a a' : Nat) (b : Byte) :
    Memory.read u (Memory.write u m a b) a' = if a' = a then b else Memory.read u m a' := by
  unfold Memory.write
  split
  · rename_i h; rw [Memory.read_erase]; split
    · rename_i h'; rw [h', h]
    · rfl
  · rw [Memory.read_insert _ _ _ _ fun c hc => Memory.ne_of_mem_erase hc, Memory.read_erase]
    split <;> simp_all

theorem Memory.read_writeList (m : Memory) (a a' : Nat) (l : List Byte) :
    Memory.read u (Memory.writeList u m a l) a' =
      if h : a ≤ a' ∧ a' < a + l.length then l[a' - a]'(by omega) else Memory.read u m a' := by
  induction l generalizing m a with
  | nil =>
    rw [Memory.writeList, dif_neg]
    simp only [List.length_nil]
    omega
  | cons b l ih =>
    rw [Memory.writeList, ih, Memory.read_write]
    by_cases h : a' = a
    · subst h
      rw [dif_neg (by omega), if_pos rfl, dif_pos (by simp)]
      simp
    · by_cases h' : a + 1 ≤ a' ∧ a' < a + 1 + l.length
      · rw [dif_pos h', dif_pos (by simp only [List.length_cons]; omega)]
        have e : a' - a = (a' - (a + 1)) + 1 := by omega
        simp only [e, List.getElem_cons_succ]
      · rw [dif_neg h', if_neg h, dif_neg (by simp only [List.length_cons]; omega)]

/-- What MemWrite does to every byte of BUF (R63). -/
theorem Memory.read_writeN {n : Nat} (m : Memory) (a a' : Nat) (v : Vector Byte n) :
    Memory.read u (Memory.writeN u m a v) a' =
      if h : a ≤ a' ∧ a' < a + n then v[a' - a]'(by omega) else Memory.read u m a' := by
  rw [Memory.writeN, Memory.read_writeList]
  simp

@[simp] theorem Memory.readN_getElem (m : Memory) (a n k : Nat) (h : k < n) :
    (Memory.readN u m a n)[k] = Memory.read u m (a + k) := by
  simp [Memory.readN]

/-- MemRead of the place just written gives what was written. -/
theorem Memory.readN_writeN_same {n : Nat} (m : Memory) (a : Nat) (v : Vector Byte n) :
    Memory.readN u (Memory.writeN u m a v) a n = v := by
  refine Vector.ext fun k hk => ?_
  rw [Memory.readN_getElem, Memory.read_writeN, dif_pos (by omega)]
  simp

/-- MemRead of a place that the write does not touch. -/
theorem Memory.readN_writeN_disjoint {n k : Nat} (m : Memory) (a a' : Nat) (v : Vector Byte n)
    (h : a' + k ≤ a ∨ a + n ≤ a') : Memory.readN u (Memory.writeN u m a v) a' k = Memory.readN u m a' k := by
  refine Vector.ext fun j hj => ?_
  rw [Memory.readN_getElem, Memory.read_writeN, dif_neg (by omega), Memory.readN_getElem]

theorem Memory.mem_insert {m : Memory} {a : Nat} {b : Byte} {c : Host.Cell} :
    c ∈ Memory.insert a b m ↔ c = (a, b) ∨ c ∈ m := by
  induction m with
  | nil => simp [Memory.insert]
  | cons d m ih =>
    simp only [Memory.insert]
    split
    · simp
    · simp only [List.mem_cons, ih]; tauto

theorem Memory.wf_nil : Memory.wf u [] := by simp [Memory.wf]

theorem Memory.wf_erase {m : Memory} (a : Nat) (h : Memory.wf u m) : Memory.wf u (m.erase a) :=
  ⟨h.1.filter _, fun c hc => h.2 c (List.mem_of_mem_filter hc)⟩

theorem Memory.wf_insert {m : Memory} (a : Nat) (b : Byte) (h : Memory.wf u m) (ha : ∀ c ∈ m, c.1 ≠ a)
    (hb : b ≠ u a) : Memory.wf u (Memory.insert a b m) := by
  refine ⟨?_, fun c hc => ?_⟩
  · have hs := h.1
    clear h
    induction m with
    | nil => simp [Memory.insert]
    | cons d m ih =>
      have hd : d.1 ≠ a := ha d (by simp)
      rw [List.pairwise_cons] at hs
      simp only [Memory.insert]
      split
      · rename_i hlt
        refine List.pairwise_cons.mpr ⟨fun c hc => ?_, List.pairwise_cons.mpr hs⟩
        rcases List.mem_cons.mp hc with rfl | hc
        · exact hlt
        · exact Nat.lt_trans hlt (hs.1 c hc)
      · refine List.pairwise_cons.mpr ⟨fun c hc => ?_, ih (fun c hc => ha c (by simp [hc])) hs.2⟩
        rcases Memory.mem_insert.mp hc with rfl | hc
        · show d.1 < a; omega
        · exact hs.1 c hc
  · rcases Memory.mem_insert.mp hc with rfl | hc
    · exact hb
    · exact h.2 c hc

/-- A write keeps the canonical form. -/
theorem Memory.wf_write {m : Memory} (a : Nat) (b : Byte) (h : Memory.wf u m) :
    Memory.wf u (Memory.write u m a b) := by
  unfold Memory.write
  split
  · exact Memory.wf_erase a h
  · rename_i hb
    exact Memory.wf_insert a b (Memory.wf_erase a h) (fun c hc => Memory.ne_of_mem_erase hc) hb

theorem Memory.wf_writeList {m : Memory} (a : Nat) (l : List Byte) (h : Memory.wf u m) :
    Memory.wf u (Memory.writeList u m a l) := by
  induction l generalizing m a with
  | nil => exact h
  | cons b l ih => exact ih _ (Memory.wf_write a b h)

/-- MemWrite keeps the canonical form. -/
theorem Memory.wf_writeN {n : Nat} {m : Memory} (a : Nat) (v : Vector Byte n) (h : Memory.wf u m) :
    Memory.wf u (Memory.writeN u m a v) := Memory.wf_writeList a v.toList h

theorem Memory.lt_of_mem_write {m : Memory} {B a : Nat} {b : Byte} (h : ∀ c ∈ m, c.1 < B) (ha : a < B) :
    ∀ c ∈ Memory.write u m a b, c.1 < B := by
  intro c hc
  unfold Memory.write at hc
  split at hc
  · exact h c (List.mem_of_mem_filter hc)
  · rcases Memory.mem_insert.mp hc with rfl | hc
    · exact ha
    · exact h c (List.mem_of_mem_filter hc)

theorem Memory.lt_of_mem_writeList {m : Memory} {B a : Nat} {l : List Byte} (h : ∀ c ∈ m, c.1 < B)
    (ha : a + l.length ≤ B) : ∀ c ∈ Memory.writeList u m a l, c.1 < B := by
  induction l generalizing m a with
  | nil => exact h
  | cons b l ih =>
    simp only [List.length_cons] at ha
    exact ih (Memory.lt_of_mem_write h (by omega)) (by omega)

/-- MemWrite inside BUF lists nothing outside it. -/
theorem Memory.lt_of_mem_writeN {n : Nat} {m : Memory} {B a : Nat} {v : Vector Byte n} (h : ∀ c ∈ m, c.1 < B)
    (ha : a + n ≤ B) : ∀ c ∈ Memory.writeN u m a v, c.1 < B :=
  Memory.lt_of_mem_writeList h (by simpa using ha)

theorem Memory.read_of_lt {m : Memory} {a : Nat} (h : ∀ c ∈ m, a < c.1) : Memory.read u m a = u a := by
  induction m with
  | nil => rfl
  | cons c m ih =>
    have hc := h c (by simp)
    rw [Memory.read, if_neg (by omega)]
    exact ih fun d hd => h d (by simp [hd])

/-- Two memories in canonical form with the same contents are the same list. -/
theorem Memory.ext_of_wf {m n : Memory} (hm : Memory.wf u m) (hn : Memory.wf u n)
    (h : ∀ a, Memory.read u m a = Memory.read u n a) : m = n := by
  induction m generalizing n with
  | nil =>
    cases n with
    | nil => rfl
    | cons d n =>
      have := h d.1
      simp only [Memory.read, if_true] at this
      exact absurd this.symm (hn.2 d (by simp))
  | cons c m ih =>
    obtain ⟨hm1, hm2⟩ := hm
    rw [List.pairwise_cons] at hm1
    cases n with
    | nil =>
      have := h c.1
      simp only [Memory.read, if_true] at this
      exact absurd this (hm2 c (by simp))
    | cons d n =>
      obtain ⟨hn1, hn2⟩ := hn
      rw [List.pairwise_cons] at hn1
      have hcd : c.1 = d.1 := by
        rcases Nat.lt_trichotomy c.1 d.1 with hlt | heq | hgt
        · have e := h c.1
          rw [Memory.read, if_pos rfl, Memory.read_of_lt (u := u) (m := d :: n) fun x hx => by
            rcases List.mem_cons.mp hx with rfl | hx
            · exact hlt
            · exact Nat.lt_trans hlt (hn1.1 x hx)] at e
          exact absurd e (hm2 c (by simp))
        · exact heq
        · have e := h d.1
          rw [Memory.read_of_lt (u := u) (m := c :: m) fun x hx => by
            rcases List.mem_cons.mp hx with rfl | hx
            · exact hgt
            · exact Nat.lt_trans hgt (hm1.1 x hx), Memory.read, if_pos rfl] at e
          exact absurd e.symm (hn2 d (by simp))
      have hv : c.2 = d.2 := by
        have e := h c.1
        rw [Memory.read, if_pos rfl, Memory.read, if_pos hcd.symm] at e
        exact e
      have hcd' : c = d := Prod.ext hcd hv
      subst hcd'
      congr 1
      refine ih ⟨hm1.2, fun x hx => hm2 x (by simp [hx])⟩ ⟨hn1.2, fun x hx => hn2 x (by simp [hx])⟩ fun a => ?_
      by_cases ha : c.1 = a
      · subst ha
        rw [Memory.read_of_lt (u := u) hm1.1, Memory.read_of_lt (u := u) hn1.1]
      · have e := h a
        simpa only [Memory.read, if_neg ha] using e

end Sys2Proof.Machine
end

