-- ==== Sys2Proof/Laws/Commands.lean ====
section
/-! SUPPORT. What the shared operations of the commands can do, each said once: the completion step, the operand
checks, the block loop, a block command, a mode command and the block cipher's table test. -/

namespace Sys2Proof.Machine

@[simp] theorem complete_ok (s t : State) : s.complete (.ok t) = t.succeed := rfl

@[simp] theorem complete_error (s : State) (c : RejectCode) : s.complete (.error c) = s.reject c := rfl

theorem inRange_iff (P : Params) (s : State) (n : Nat) :
    s.inRange P n = true ↔ s.bufAddr.toNat % 4 = 0 ∧ s.bufAddr.toNat + n ≤ P.bufBytes := by
  simp [State.inRange]

theorem cntOk_iff (cnt : BitVec 4) : cntOk cnt = true ↔ 1 ≤ cnt.toNat ∧ cnt.toNat ≤ 8 := by simp [cntOk]

/-- The whole outcome of the prologue (R220): LENGTH, RANGE, or the number of blocks of a region that fits. -/
theorem regionBlocks_cases (P : Params) (s : State) :
    (s.len.toNat % 24 ≠ 0 ∧ s.regionBlocks P = .error .length) ∨
    (s.len.toNat % 24 = 0 ∧ ¬(s.bufAddr.toNat % 4 = 0 ∧ s.bufAddr.toNat + s.len.toNat ≤ P.bufBytes) ∧
      s.regionBlocks P = .error .range) ∨
    (s.len.toNat % 24 = 0 ∧ s.bufAddr.toNat % 4 = 0 ∧ s.bufAddr.toNat + s.len.toNat ≤ P.bufBytes ∧
      s.regionBlocks P = .ok (s.len.toNat / 24)) := by
  unfold State.regionBlocks
  by_cases hl : s.len.toNat % 24 = 0
  · by_cases hr : s.bufAddr.toNat % 4 = 0 ∧ s.bufAddr.toNat + s.len.toNat ≤ P.bufBytes
    · have hr' := (inRange_iff P s s.len.toNat).mpr hr
      exact .inr (.inr ⟨hl, hr.1, hr.2, by simp [hl, hr']⟩)
    · have hr' : s.inRange P s.len.toNat = false := by
        rw [← Bool.not_eq_true, inRange_iff]; exact hr
      exact .inr (.inl ⟨hl, hr, by simp [hl, hr']⟩)
  · exact .inl ⟨hl, by simp [hl]⟩

theorem regionBlocks_ok {P : Params} {s : State} (hl : s.len.toNat % 24 = 0) (ha : s.bufAddr.toNat % 4 = 0)
    (hr : s.bufAddr.toNat + s.len.toNat ≤ P.bufBytes) : s.regionBlocks P = .ok (s.len.toNat / 24) := by
  rcases regionBlocks_cases P s with h | h | h
  · exact absurd hl h.1
  · exact absurd ⟨ha, hr⟩ h.2.1
  · exact h.2.2.2

/-- Everything the block loop does (R221): there is a sequence of chaining values from the first one, each block
of the region is the block function's output on the block that stood there, the last value is answered, and
every byte outside the region is as before. -/
theorem chainBlocks_spec {σ : Type} {u : Nat → Byte} (f : σ → Block → Block × σ) (n a : Nat) (c : σ) (m : Memory) :
    ∃ cs : Nat → σ, cs 0 = c ∧ (chainBlocks u f n a c m).2 = cs n ∧
      (∀ b < n, Memory.readN u (chainBlocks u f n a c m).1 (a + 24 * b) 24
          = (f (cs b) (Memory.readN u m (a + 24 * b) 24)).1 ∧
        cs (b + 1) = (f (cs b) (Memory.readN u m (a + 24 * b) 24)).2) ∧
      ∀ o, o < a ∨ a + 24 * n ≤ o → Memory.read u (chainBlocks u f n a c m).1 o = Memory.read u m o := by
  induction n generalizing a c m with
  | zero => exact ⟨fun _ => c, rfl, rfl, fun b hb => absurd hb (by omega), fun _ _ => rfl⟩
  | succ n ih =>
    obtain ⟨cs, h0, hlast, hblk, hout⟩ := ih (a + 24) (f c (Memory.readN u m a 24)).2
      (Memory.writeN u m a (f c (Memory.readN u m a 24)).1)
    refine ⟨fun k => match k with
      | 0 => c
      | k + 1 => cs k, rfl, hlast, fun b hb => ?_, fun o ho => ?_⟩
    · cases b with
      | zero =>
        refine ⟨?_, h0⟩
        have e : Memory.readN u (chainBlocks u f (n + 1) a c m).1 (a + 24 * 0) 24
            = Memory.readN u (Memory.writeN u m a (f c (Memory.readN u m a 24)).1) a 24 := by
          refine Vector.ext fun k hk => ?_
          rw [Memory.readN_getElem, Memory.readN_getElem]
          exact hout _ (by omega)
        rw [e, Memory.readN_writeN_same]
        rfl
      | succ b =>
        have hb' := hblk b (by omega)
        have ea : a + 24 * (b + 1) = a + 24 + 24 * b := by omega
        rw [Memory.readN_writeN_disjoint _ _ _ _ (by omega)] at hb'
        rw [ea]
        exact hb'
    · have e := hout o (by omega)
      rw [Memory.read_writeN, dif_neg (by omega)] at e
      exact e

/-- The block loop keeps the canonical form. -/
theorem chainBlocks_wf {σ : Type} {u : Nat → Byte} (f : σ → Block → Block × σ) (n a : Nat) (c : σ) (m : Memory)
    (h : Memory.wf u m) : Memory.wf u (chainBlocks u f n a c m).1 := by
  induction n generalizing a c m with
  | zero => exact h
  | succ n ih => exact ih _ _ _ (Memory.wf_writeN _ _ h)

/-- The block loop lists nothing outside a bound that holds the region. -/
theorem chainBlocks_lt {σ : Type} {u : Nat → Byte} (f : σ → Block → Block × σ) (n a B : Nat) (c : σ) (m : Memory)
    (h : ∀ x ∈ m, x.1 < B) (ha : a + 24 * n ≤ B) : ∀ x ∈ (chainBlocks u f n a c m).1, x.1 < B := by
  induction n generalizing a c m with
  | zero => exact h
  | succ n ih =>
    refine ih (a + 24) _ _ (Memory.lt_of_mem_writeN h (by omega)) (by omega)

/-- Everything a mode command can do: it is rejected by the prologue, or it answers the loop's result. -/
theorem modeCommand_cases {σ : Type} (P : Params) (f : σ → Block → Block × σ) (c0 : σ)
    (report : σ → State → State) (s : State) :
    (modeCommand P f c0 report s = .error .length ∧ s.len.toNat % 24 ≠ 0) ∨
    (modeCommand P f c0 report s = .error .range ∧ s.len.toNat % 24 = 0 ∧
      ¬(s.bufAddr.toNat % 4 = 0 ∧ s.bufAddr.toNat + s.len.toNat ≤ P.bufBytes)) ∨
    (s.len.toNat % 24 = 0 ∧ s.bufAddr.toNat % 4 = 0 ∧ s.bufAddr.toNat + s.len.toNat ≤ P.bufBytes ∧
      modeCommand P f c0 report s = .ok (report
        (chainBlocks (s.unlisted P) f (s.len.toNat / 24) s.bufAddr.toNat c0 s.buf).2
        { s with buf := (chainBlocks (s.unlisted P) f (s.len.toNat / 24) s.bufAddr.toNat c0 s.buf).1 })) := by
  unfold modeCommand
  rcases regionBlocks_cases P s with ⟨h, e⟩ | ⟨h, h', e⟩ | ⟨h, h', h'', e⟩
  · exact .inl ⟨by rw [e], h⟩
  · exact .inr (.inl ⟨by rw [e], h, h'⟩)
  · exact .inr (.inr ⟨h, h', h'', by rw [e]⟩)

theorem modeCommand_ok {σ : Type} {P : Params} (f : σ → Block → Block × σ) (c0 : σ)
    (report : σ → State → State) {s : State} (hl : s.len.toNat % 24 = 0) (ha : s.bufAddr.toNat % 4 = 0)
    (hr : s.bufAddr.toNat + s.len.toNat ≤ P.bufBytes) :
    modeCommand P f c0 report s = .ok (report
      (chainBlocks (s.unlisted P) f (s.len.toNat / 24) s.bufAddr.toNat c0 s.buf).2
      { s with buf := (chainBlocks (s.unlisted P) f (s.len.toNat / 24) s.bufAddr.toNat c0 s.buf).1 }) := by
  unfold modeCommand
  rw [regionBlocks_ok hl ha hr]

/-- Everything RF.ADV and RF.REV can do, for their block function f (R140, R141). -/
theorem blockCommand_cases (P : Params) (f : Block → Block) (cnt : BitVec 4) (s : State) :
    (blockCommand P f cnt s = .error .illegal ∧ ¬(1 ≤ cnt.toNat ∧ cnt.toNat ≤ 8)) ∨
    (blockCommand P f cnt s = .error .range ∧ (1 ≤ cnt.toNat ∧ cnt.toNat ≤ 8) ∧
      ¬(s.bufAddr.toNat % 4 = 0 ∧ s.bufAddr.toNat + 24 ≤ P.bufBytes)) ∨
    ((1 ≤ cnt.toNat ∧ cnt.toNat ≤ 8) ∧ s.bufAddr.toNat % 4 = 0 ∧ s.bufAddr.toNat + 24 ≤ P.bufBytes ∧
      blockCommand P f cnt s = .ok (s.memWrite P s.bufAddr.toNat
        (f^[cnt.toNat] (s.memRead P s.bufAddr.toNat 24)))) := by
  unfold blockCommand
  by_cases hc : 1 ≤ cnt.toNat ∧ cnt.toNat ≤ 8
  · have hc' := (cntOk_iff cnt).mpr hc
    by_cases hr : s.bufAddr.toNat % 4 = 0 ∧ s.bufAddr.toNat + 24 ≤ P.bufBytes
    · have hr' := (inRange_iff P s 24).mpr hr
      exact .inr (.inr ⟨hc, hr.1, hr.2, by simp [hc', hr']⟩)
    · have hr' : s.inRange P 24 = false := by rw [← Bool.not_eq_true, inRange_iff]; exact hr
      exact .inr (.inl ⟨by simp [hc', hr'], hc, hr⟩)
  · have hc' : cntOk cnt = false := by rw [← Bool.not_eq_true, cntOk_iff]; exact hc
    exact .inl ⟨by simp [hc'], hc⟩

/-- The computed inverse is the inverse of every odd byte (R127). -/
theorem mul_inv256 : ∀ k : BitVec 7, (k ++ 1#1 : BitVec 8) * inv256 (k ++ 1#1) = 1 := by decide

/-- The table test of TBLCHK passes on every conforming unit (R271). -/
theorem tablesMatch_true (P : Params) : tablesMatch P = true := by
  simp only [tablesMatch, List.all_eq_true, beq_iff_eq]
  exact fun j _ => mul_inv256 (P.mulHigh j)

theorem bufBytes_bounds (P : Params) : 24 ≤ P.bufBytes ∧ P.bufBytes ≤ 4080 ∧ P.bufBytes % 24 = 0 := by
  have := P.bufBlocks.isLt
  simp only [Params.bufBytes, blockBytes]
  omega

/-- The XOR of blocks is bytewise (R11). -/
@[simp] theorem xorBlock_getElem (a b : Block) (j : Nat) (h : j < 24) : (xorBlock a b)[j] = a[j] ^^^ b[j] := by
  simp [xorBlock]

/-- Byte j of round chunk r is `RK[24r+j]` (R200). -/
@[simp] theorem chunk_getElem (rk : RoundKeys) (r : Fin 8) (j : Nat) (h : j < 24) :
    (chunk rk r)[j] = rk[24 * r.val + j] := by
  simp [chunk]

/-- Byte k of MemRead at `a` is `BUF[a+k]` (R63). -/
theorem memRead_getElem (P : Params) (s : State) (a n k : Nat) (h : k < n) :
    (s.memRead P a n)[k] = s.byteAt P (a + k) := by
  simp [State.memRead, State.byteAt]

end Sys2Proof.Machine
end

