-- ==== Sys2Proof/Laws/Decode.lean ====
section
/-! SUPPORT. What a successful decoding says of the word (spec/30_encoding.md R90, R93). -/

namespace Sys2Proof

/-- A command that takes no count: what its row's test lets through. -/
theorem decodePlain_ok {w : Word} {i j : Instr} (h : decodePlain w i = .ok j) : cntField w = 0 ∧ j = i := by
  unfold decodePlain at h
  split at h
  · cases h; exact ⟨‹_›, rfl⟩
  · cases h

/-- A decoded command has the word's fields (R90, R93). -/
theorem decode_fields {w : Word} {i : Instr} (h : decode w = .ok i) :
    rsvField w = 0 ∧ opcField w = i.opc ∧ cntField w = i.cnt := by
  have plain : ∀ {j : Instr}, decodePlain w j = .ok i → opcField w = j.opc → j.cnt = 0 →
      opcField w = i.opc ∧ cntField w = i.cnt := by
    intro j h ho hc
    obtain ⟨h0, rfl⟩ := decodePlain_ok h
    exact ⟨ho, h0.trans hc.symm⟩
  unfold decode at h
  by_cases r : rsvField w = 0
  · rw [if_pos r] at h
    refine ⟨r, ?_⟩
    by_cases o : opcField w = 0x00
    · rw [if_pos o] at h; exact plain h o rfl
    rw [if_neg o] at h; clear o
    by_cases o : opcField w = 0x01
    · rw [if_pos o] at h; cases h; exact ⟨o, rfl⟩
    rw [if_neg o] at h; clear o
    by_cases o : opcField w = 0x02
    · rw [if_pos o] at h; cases h; exact ⟨o, rfl⟩
    rw [if_neg o] at h; clear o
    iterate 9
      rw [ite_eq_iff] at h
      obtain ⟨o, h⟩ | ⟨_, h⟩ := h
      · exact plain h o rfl
    cases h
  · rw [if_neg r] at h; cases h

end Sys2Proof
end

