-- ==== Sys2Proof/Laws/PerInstr.lean ====
section
/-! SUPPORT. One statement per command: its encoding is a legal word exactly when the command is well-formed
(spec/30_encoding.md R94). -/

namespace Sys2Proof.Laws.EncodeLegal

/-- R94 on the encoding of a command. -/
def Statement (i : Instr) : Prop := legal (encode i) = i.wellFormed

theorem nop : Statement .nop := by unfold Statement; decide
theorem rfAdv (cnt : BitVec 4) : Statement (.rfAdv cnt) := by unfold Statement; revert cnt; decide
theorem rfRev (cnt : BitVec 4) : Statement (.rfRev cnt) := by unfold Statement; revert cnt; decide
theorem tblchk : Statement .tblchk := by unfold Statement; decide
theorem keyexp : Statement .keyexp := by unfold Statement; decide
theorem keyclr : Statement .keyclr := by unfold Statement; decide
theorem ecbEnc : Statement .ecbEnc := by unfold Statement; decide
theorem ecbDec : Statement .ecbDec := by unfold Statement; decide
theorem cbcEnc : Statement .cbcEnc := by unfold Statement; decide
theorem cbcDec : Statement .cbcDec := by unfold Statement; decide
theorem ofbXcrypt : Statement .ofbXcrypt := by unfold Statement; decide
theorem ctrXcrypt : Statement .ctrXcrypt := by unfold Statement; decide

end Sys2Proof.Laws.EncodeLegal
end

