-- ==== Sys2Proof/Tests/Slice0.lean ====
section
/-! SUPPORT. The model's own tests. Expected values are the spec's: spec/95_test_vectors.md under test profile TP1
(spec/00_scope.md R9), the encodings of spec/30_encoding.md R93 written out bit by bit, and the rules named. The
last part holds, for each statement with hypotheses, states and operands that meet them. -/

namespace Sys2Proof.Tests

open Sys2Proof Sys2Proof.Machine

/-! ### Well-formed commands (R92, R94) -/

theorem test_rfAdv_count_zero_refused : (Instr.rfAdv 0).wellFormed = false := by decide
theorem test_rfAdv_count_nine_and_more_refused : ∀ k : Fin 7, (Instr.rfAdv (BitVec.ofNat 4 (9 + k))).wellFormed = false := by
  decide
theorem test_rfRev_count_zero_refused : (Instr.rfRev 0).wellFormed = false := by decide
theorem test_rfRev_count_nine_and_more_refused : ∀ k : Fin 7, (Instr.rfRev (BitVec.ofNat 4 (9 + k))).wellFormed = false := by
  decide
theorem test_counts_one_to_eight_accepted : ∀ k : Fin 8, (Instr.rfAdv (BitVec.ofNat 4 (1 + k))).wellFormed = true ∧
    (Instr.rfRev (BitVec.ofNat 4 (1 + k))).wellFormed = true := by decide

/-! ### Decoding: RSV 20 bits, CNT 4 bits, OPC 8 bits, from the tables of R90 and R93 -/

theorem test_decode_nop : decode (0b00000000000000000000#20 ++ 0b0000#4 ++ 0b00000000#8) = .ok .nop := by decide
theorem test_decode_rfAdv : decode (0b00000000000000000000#20 ++ 0b0011#4 ++ 0b00000001#8) = .ok (.rfAdv 3) := by decide
theorem test_decode_rfRev : decode (0b00000000000000000000#20 ++ 0b1000#4 ++ 0b00000010#8) = .ok (.rfRev 8) := by decide
theorem test_decode_tblchk : decode (0b00000000000000000000#20 ++ 0b0000#4 ++ 0b00000011#8) = .ok .tblchk := by decide
theorem test_decode_keyexp : decode (0b00000000000000000000#20 ++ 0b0000#4 ++ 0b00010000#8) = .ok .keyexp := by decide
theorem test_decode_keyclr : decode (0b00000000000000000000#20 ++ 0b0000#4 ++ 0b00010001#8) = .ok .keyclr := by decide
theorem test_decode_ecbEnc : decode (0b00000000000000000000#20 ++ 0b0000#4 ++ 0b00100000#8) = .ok .ecbEnc := by decide
theorem test_decode_ecbDec : decode (0b00000000000000000000#20 ++ 0b0000#4 ++ 0b00100001#8) = .ok .ecbDec := by decide
theorem test_decode_cbcEnc : decode (0b00000000000000000000#20 ++ 0b0000#4 ++ 0b00100010#8) = .ok .cbcEnc := by decide
theorem test_decode_cbcDec : decode (0b00000000000000000000#20 ++ 0b0000#4 ++ 0b00100011#8) = .ok .cbcDec := by decide
theorem test_decode_ofbXcrypt : decode (0b00000000000000000000#20 ++ 0b0000#4 ++ 0b00100100#8) = .ok .ofbXcrypt := by
  decide
theorem test_decode_ctrXcrypt : decode (0b00000000000000000000#20 ++ 0b0000#4 ++ 0b00100101#8) = .ok .ctrXcrypt := by
  decide

/-- R95, V-ER-8, V-ER-9, V-CT-1, V-KS-9: each refusal has its own name. -/
theorem test_decode_refusals : decode 0x00000026 = .error (.unassignedOpcode 0x26) ∧
    decode 0x00001000 = .error (.reservedBits 1) ∧ decode 0x80000000 = .error (.reservedBits 0x80000) ∧
    decode 0x00000100 = .error (.countNotZero 0x00 1) ∧ decode 0x00000110 = .error (.countNotZero 0x10 1) := by decide

theorem test_decodeTableWord : decodeTableWord 32 0x00000502 = some (.rfRev 5) ∧ decodeTableWord 32 0x00000004 = none := by
  decide

/-- The next step runs the word that `withFetchWord` placed. -/
theorem test_withFetchWord_runs : step (State.reset.withFetchWord 32 0x00000011) =
    .next { State.reset with cmd := 0x00000011, done := true } := by rfl

/-! ### Test profile TP1 (R9) -/

/-- The parameters of R9, at BUF_BYTES = 3072, every byte of BUF drawn as 0x11 (section 2.6). -/
def tp1 : Params where
  rotR i := #v[5, 9, 13, 18, 22, 27][i]
  mulHigh j := BitVec.ofNat 7 (29 * j.val + 11)
  ksS i := #v[1, 5, 9, 13, 17, 21, 25, 29][i]
  wkgH j b := ((b <<< 1) ^^^ (b >>> 4)) + BitVec.ofNat 8 (0x6D + 5 * j.val)
  koPos := 0
  koF _ b0 b1 b2 b3 := b0 ^^^ (b1 ^^^ b2 ^^^ b3).rotateLeft 3
  ctrPrefix i := #v[0x4F, 0x50, 0x34, 0x21][i]
  bufBlocks := 127
  bufDraw _ _ := 0x11
  resetReadData _ := 0

/-- The block `00 01 .. 17`. -/
def ramp : Block := Vector.ofFn fun j => BitVec.ofNat 8 j.val

/-- The reset state with BUF_ADDR and LEN set. -/
def region (bufAddr len : Word) : State := { State.reset with bufAddr := bufAddr, len := len }

theorem test_bufBytes_default : tp1.bufBytes = 3072 := by decide

/-- R127: TP1's inverse table, its first and last entries. -/
theorem test_minv : minv tp1 0 = 0xA7 ∧ minv tp1 4 = 0xFF ∧ minv tp1 23 = 0x85 := by decide +kernel

/-- V-CD-3. -/
theorem test_words : wordsOfBlock ramp = #v[0x03020100, 0x07060504, 0x0B0A0908, 0x0F0E0D0C, 0x13121110, 0x17161514] := by
  decide +kernel

/-- V-RF-3: the update is in place, not parallel. -/
theorem test_diffuse : diffuse tp1 (wordsOfBlock ramp) =
    #v[0x815E3B18, 0x39342F32, 0x7A573491, 0xDFB69D74, 0x15AD43E2, 0xD5A24F83] := by decide +kernel

/-- V-RF-9. -/
theorem test_undiffuse : undiffuse tp1 (wordsOfBlock ramp) =
    #v[0xFAB57D30, 0x8BE0B616, 0x5A76FB33, 0xC5FAA998, 0x25283322, 0x4080C100] := by decide +kernel

/-- V-RF-2. -/
theorem test_advance : advance tp1 ramp = #v[0x28, 0xAB, 0x0A, 0x45, 0xCE, 0x77, 0x5C, 0x85, 0xD7, 0xB4, 0xED, 0x02, 0xCC,
    0x85, 0xA2, 0xE3, 0x8E, 0x13, 0x0F, 0x49, 0x5D, 0xF7, 0x06, 0x11] := by decide +kernel

/-- V-RF-6. -/
theorem test_reverse : reverse tp1 ramp = #v[0xB8, 0xB2, 0x23, 0x08, 0x6D, 0x85, 0x26, 0x37, 0x6F, 0xFD, 0x20, 0xE4, 0x23,
    0xD7, 0x88, 0x07, 0xFC, 0x7E, 0xAD, 0xCA, 0x15, 0x97, 0x5A, 0x2D] := by decide +kernel

/-- V-KS-1: one transformation of the zero key. -/
theorem test_transform : transform tp1 (Vector.replicate 32 0) = #v[0x5A, 0x61, 0x40, 0x4F, 0xAB, 0xEA, 0xA9, 0x30, 0xF9,
    0xD1, 0xBE, 0xBB, 0x1A, 0xE4, 0x04, 0xB0, 0x1B, 0xF5, 0xE5, 0xDA, 0xB6, 0x70, 0x18, 0x3B, 0x69, 0xE2, 0xB1, 0x84,
    0xB5, 0xFB, 0xBC, 0x63] := by decide +kernel

/-- V-KS-5: the round keys of the key `FF x31, 7F`, its six snapshots. -/
def rkFF : RoundKeys := #v[
  0xAE, 0xF9, 0x9D, 0xEC, 0xC7, 0x70, 0x38, 0xCD, 0xC8, 0x47, 0x6B, 0x4F, 0x8E, 0x04, 0x06, 0xE0,
  0xE0, 0x10, 0x2C, 0x30, 0xE0, 0x82, 0x2A, 0x86, 0x18, 0xB2, 0xBF, 0x02, 0xF4, 0xEF, 0x0D, 0x33,
  0x80, 0xDD, 0x07, 0x51, 0x9B, 0x0B, 0xB3, 0x3A, 0xCE, 0x45, 0x9D, 0x23, 0xED, 0xC3, 0x7F, 0x7D,
  0xB5, 0x47, 0x2C, 0x88, 0x4A, 0x9E, 0x03, 0xB7, 0x94, 0x47, 0xD4, 0x4A, 0xFB, 0x4F, 0x81, 0xC6,
  0xBC, 0x9E, 0x60, 0xC8, 0x7D, 0x1B, 0x24, 0xF2, 0x38, 0xF4, 0xCB, 0x1B, 0x59, 0x71, 0xF1, 0x81,
  0xE6, 0x0D, 0xCE, 0xE9, 0x9C, 0x39, 0x5F, 0x23, 0x28, 0x1F, 0xD8, 0xA0, 0x4F, 0x3E, 0xE6, 0x05,
  0x29, 0xCC, 0x64, 0x64, 0xED, 0xCA, 0x93, 0xD4, 0xAF, 0x70, 0xE5, 0xA3, 0x47, 0xA0, 0xBD, 0x87,
  0x8F, 0xAF, 0xBF, 0xA6, 0x63, 0xD5, 0xAF, 0x4F, 0xB4, 0x60, 0x6A, 0x1F, 0x01, 0x01, 0x58, 0x74,
  0x15, 0xBD, 0x07, 0x26, 0x3D, 0xEF, 0xFD, 0x26, 0xBF, 0xAC, 0xE8, 0x5F, 0xD5, 0x1F, 0xFC, 0xFB,
  0x35, 0xB7, 0x53, 0x75, 0xFB, 0xFD, 0x63, 0x23, 0x1A, 0xAC, 0xFA, 0xA7, 0xD4, 0x2D, 0xF5, 0xC5,
  0x6C, 0x64, 0xA4, 0x04, 0xE8, 0xD6, 0xC8, 0xF2, 0x2E, 0x39, 0x16, 0x49, 0xFD, 0xAC, 0xFE, 0x5F,
  0xE0, 0xC0, 0x77, 0x14, 0xD0, 0x3B, 0x4C, 0x03, 0xF5, 0x93, 0x8A, 0x7E, 0x93, 0xAC, 0x8D, 0x2C]

/-- V-BC-1: E under round keys that are not zero, and D of the result. -/
theorem test_encryptBlock : encryptBlock tp1 rkFF ramp = #v[0x99, 0x8D, 0xA3, 0x22, 0x91, 0x5C, 0xF6, 0xD6, 0x2D, 0x6B, 0x14, 0x08,
    0x7F, 0x92, 0x5D, 0xE3, 0x0F, 0x61, 0xA1, 0x8E, 0x2B, 0xAC, 0x42, 0x3F] := by decide +kernel

theorem test_decryptBlock : decryptBlock tp1 rkFF #v[0x99, 0x8D, 0xA3, 0x22, 0x91, 0x5C, 0xF6, 0xD6, 0x2D, 0x6B, 0x14, 0x08,
    0x7F, 0x92, 0x5D, 0xE3, 0x0F, 0x61, 0xA1, 0x8E, 0x2B, 0xAC, 0x42, 0x3F] = ramp := by
  decide +kernel

/-- R34: the nonce's bytes by its registers. -/
theorem test_nonceBytes : { State.reset with nonce := #v[0x03020100, 0x07060504, 0x0B0A0908] }.nonceBytes =
    #v[0, 1, 2, 3, 4, 5, 6, 7, 8, 9, 10, 11] := by decide +kernel

/-- V-RF-15 and V-RF-16: the last block fits; four bytes further it does not. -/
theorem test_rfAdv_edge : (blockCommand tp1 id 1 (region 3048 0)).isOk = true ∧
    blockCommand tp1 id 1 (region 3052 0) = .error .range := by decide +kernel

/-- V-RF-14. -/
theorem test_rfRev_counts : rfRevCommand tp1 0 State.reset = .error .illegal ∧
    rfRevCommand tp1 9 State.reset = .error .illegal := by decide +kernel

/-- V-ER-1 to V-ER-7 and V-MD-5: LENGTH before RANGE, the exact fit, and no wrap-around. -/
theorem test_prologue : (region 0 25).regionBlocks tp1 = .error .length ∧ (region 2 24).regionBlocks tp1 = .error .range ∧
    (region 3048 48).regionBlocks tp1 = .error .range ∧ (region 3024 48).regionBlocks tp1 = .ok 2 ∧
    (region 2 25).regionBlocks tp1 = .error .length ∧ (region 0xFFFFFFFC 24).regionBlocks tp1 = .error .range ∧
    (region 3076 0).regionBlocks tp1 = .error .range ∧ (region 0 32).regionBlocks tp1 = .error .length := by
  decide +kernel

/-- V-MD-9: LEN = 0 at the end of BUF is accepted, and no block is done. -/
theorem test_empty_region : (region 3072 0).regionBlocks tp1 = .ok 0 := by decide +kernel

/-- V-MD-7: the counter block for a nonce of FF bytes and counter 1. -/
theorem test_ctrBlock : ctrBlock tp1 (Vector.replicate 12 0xFF) 1 = #v[0x4F, 0x50, 0x34, 0x21, 0xFF, 0xFF, 0xFF, 0xFF,
    0xFF, 0xFF, 0xFF, 0xFF, 0xFF, 0xFF, 0xFF, 0xFF, 0x01, 0, 0, 0, 0, 0, 0, 0] := by decide +kernel

/-- R246: the counter wraps to 0 mod 2^64. -/
theorem test_counter_wraps (x : Block) :
    (ctrModeBlock tp1 (Vector.replicate 192 0) (Vector.replicate 12 0) 0xFFFFFFFFFFFFFFFF x).2 = 0 := by
  show (0xFFFFFFFFFFFFFFFF + 1 : BitVec 64) = 0
  decide

/-- V-ER-1, V-ER-2 and V-CT-1 read in STATUS (LENGTH, RANGE and ILLEGAL), and a success. -/
theorem test_status_words : (State.reset.reject .length).statusWord = 0x00000206 ∧
    (State.reset.reject .range).statusWord = 0x00000306 ∧ (State.reset.reject .illegal).statusWord = 0x00000106 ∧
    State.reset.succeed.statusWord = 0x00000002 := by decide

/-! ### The bus (V-CD-1, V-BUS) -/

/-- V-CD-1: the window is little-endian. -/
theorem test_buf_write : (State.reset.hostWrite tp1 0x1000 0x12345678).memRead tp1 0 4 = #v[0x78, 0x56, 0x34, 0x12] := by
  decide +kernel

/-- A byte written with the value an unlisted byte reads as leaves no entry. -/
theorem test_buf_canonical : (State.reset.hostWrite tp1 0x1004 0x11111111).buf = [] ∧
    (State.reset.hostWrite tp1 0x1004 0x11221111).buf = [(6, 0x22)] := by decide +kernel

/-- V-BUS-1 to V-BUS-3: while NOP is pending, IV0 reads 0 and a second word is refused. -/
theorem test_busy : let s := State.reset.accept 0
    s.statusWord = 0x00000001 ∧ (s.hostRead tp1 0x040).1 = 0 ∧ (s.hostRead tp1 0x040).2.statusWord = 0x00000009 ∧
    (s.hostWrite tp1 0x000 0x11).cmd = 0 ∧ (s.hostWrite tp1 0x000 0x11).statusWord = 0x00000009 := by decide +kernel

/-- V-BUS-6 to V-BUS-10 and V-BUS-12. -/
theorem test_bus_reads : (State.reset.hostRead tp1 0x041).2.statusWord = 0x00000008 ∧
    (State.reset.hostRead tp1 0x06C).2.statusWord = 0x00000008 ∧ State.reset.hostRead tp1 0x020 = (0, State.reset) ∧
    (State.reset.hostRead tp1 0x1C00).2.statusWord = 0x00000008 ∧ (State.reset.hostRead tp1 0x00C).1 = 0x0034504F ∧
    (State.reset.hostRead tp1 0x088).1 = 0x0C000818 ∧
    ((State.reset.hostWrite tp1 0x008 0xFFFFFFFF).hostRead tp1 0x008).1 = 1 := by decide +kernel

/-- R22, R29 to R36: registers at their own addresses, and a write to a read-only one ignored. -/
theorem test_register_addresses : (State.reset.hostWrite tp1 0x014 24).len = 24 ∧
    (State.reset.hostWrite tp1 0x018 7).ctrLo = 7 ∧ (State.reset.hostWrite tp1 0x054 9).iv[5] = 9 ∧
    (State.reset.hostWrite tp1 0x058 5).nonce[0] = 5 ∧ State.reset.hostWrite tp1 0x084 1 = State.reset := by decide +kernel

/-- R64, V-BUS-12 and V-BUS-10: a step takes the host's read of ID, with its word on the port, and its write to CTRL. -/
theorem test_step_takes_bus_turns :
    step { State.reset with events := [.read 0x00C] } = .next { State.reset with rdata := some 0x0034504F } ∧
    step { State.reset with events := [.write 0x008 0xFFFFFFFF] } = .next { State.reset with ie := true } := ⟨rfl, rfl⟩

/-- R43: BUF lists nothing after reset, and this is the canonical form. -/
theorem test_reset_memory : Memory.wf (State.reset.unlisted Config.params) State.reset.buf := Memory.wf_nil

/-! ### The hypotheses of the statements can be met -/

/-- R94 and R95 (DecodeEncodeAgree, LegalWordsExactly). -/
theorem wit_wellFormed : (Instr.rfAdv 1).wellFormed = true ∧ (Instr.rfRev 8).wellFormed = true ∧
    Instr.ctrXcrypt.wellFormed = true ∧ decode 0x00000F02 = .ok (.rfRev 15) := by decide

/-- Each kind of illegal word at its bounds, and legal words beside them (IllegalWordsRejected). -/
theorem wit_illegalWord : illegalWord 0x04 ∧ illegalWord 0x0F ∧ illegalWord 0x12 ∧ illegalWord 0x1F ∧ illegalWord 0x26 ∧
    illegalWord 0xFF ∧ illegalWord 0x1000 ∧ illegalWord 0x80000000 ∧ illegalWord 0x001 ∧ illegalWord 0x901 ∧
    illegalWord 0xF02 ∧ illegalWord 0x100 ∧ illegalWord 0xF25 ∧ ¬illegalWord 0x00 ∧ ¬illegalWord 0x101 ∧
    ¬illegalWord 0x802 ∧ ¬illegalWord 0x03 ∧ ¬illegalWord 0x10 ∧ ¬illegalWord 0x20 ∧ ¬illegalWord 0x25 := by
  refine ⟨?_, ?_, ?_, ?_, ?_, ?_, ?_, ?_, ?_, ?_, ?_, ?_, ?_, ?_, ?_, ?_, ?_, ?_, ?_, ?_⟩ <;> unfold illegalWord <;> decide

/-- A byte whose product with MUL[0] is 1 under TP1, and a zero byte (MultiplierInverseUnique, ConfusionInvertible). -/
theorem wit_multiplier : (tp1.mul 0).toNat * (0xA7 : Byte).toNat % 256 = 1 ∧ (Vector.replicate 24 0 : Block)[(3 : Fin 24)] = 0 := by
  decide +kernel

/-- A block that fits at both ends of BUF. -/
theorem fits_first (len : Word) : (region 0 len).fits Config.params 24 := by
  have := bufBytes_bounds Config.params
  exact ⟨rfl, by show 0 + 24 ≤ _; omega⟩

theorem bufBytes_word : (BitVec.ofNat 32 Config.params.bufBytes).toNat = Config.params.bufBytes ∧
    (BitVec.ofNat 32 (Config.params.bufBytes - 24)).toNat = Config.params.bufBytes - 24 ∧
    (BitVec.ofNat 32 (Config.params.bufBytes + 4)).toNat = Config.params.bufBytes + 4 := by
  have := bufBytes_bounds Config.params
  simp only [BitVec.toNat_ofNat]
  omega

/-- The last block of BUF. -/
theorem fits_last (len : Word) : (region (BitVec.ofNat 32 (Config.params.bufBytes - 24)) len).fits Config.params 24 := by
  have := bufBytes_bounds Config.params
  have h := bufBytes_word.2.1
  constructor
  · show (BitVec.ofNat 32 (Config.params.bufBytes - 24)).toNat % 4 = 0
    omega
  · show (BitVec.ofNat 32 (Config.params.bufBytes - 24)).toNat + 24 ≤ _
    omega

/-- RfAdvResult, RfRevResult, RfRevRestores: counts 1 and 8, the first and the last block. -/
theorem wit_rfResult : (1 ≤ (1 : BitVec 4).toNat ∧ (8 : BitVec 4).toNat ≤ 8) ∧ (region 0 0).fits Config.params 24 ∧
    (region (BitVec.ofNat 32 (Config.params.bufBytes - 24)) 0).fits Config.params 24 :=
  ⟨by decide, fits_first 0, fits_last 0⟩

/-- RfRejected: counts 0, 9 and 15; a misaligned block, and one that ends beyond BUF. -/
theorem wit_rfRejected : ((0 : BitVec 4).toNat = 0 ∧ 9 ≤ (9 : BitVec 4).toNat ∧ 9 ≤ (15 : BitVec 4).toNat) ∧
    (region 2 0).bufAddr.toNat % 4 ≠ 0 ∧
    Config.params.bufBytes < (region (BitVec.ofNat 32 Config.params.bufBytes) 0).bufAddr.toNat + 24 := by
  refine ⟨by decide, by decide, ?_⟩
  show _ < (BitVec.ofNat 32 Config.params.bufBytes).toNat + 24
  have := bufBytes_word.1
  omega

/-- The results of the six mode commands, ModesRoundTrip and KeystreamIndependentOfData: no block, one block at
either end of BUF, and the whole of BUF. -/
theorem wit_regionOk : (region 0 0).regionOk Config.params ∧ (region 0 24).regionOk Config.params ∧
    (region (BitVec.ofNat 32 (Config.params.bufBytes - 24)) 24).regionOk Config.params ∧
    (region 0 (BitVec.ofNat 32 Config.params.bufBytes)).regionOk Config.params := by
  have hb := bufBytes_bounds Config.params
  have hw := bufBytes_word
  refine ⟨⟨rfl, rfl, Nat.zero_le _⟩, ⟨rfl, fits_first 24⟩, ⟨rfl, fits_last 24⟩, ?_, rfl, ?_⟩
  · show (BitVec.ofNat 32 Config.params.bufBytes).toNat % 24 = 0
    omega
  · show 0 + (BitVec.ofNat 32 Config.params.bufBytes).toNat ≤ _
    omega

/-- ModesRoundTrip: the four pairs are in its list. -/
theorem wit_modePairs : (Instr.cbcEnc, Instr.cbcDec) ∈ [(Instr.ecbEnc, Instr.ecbDec), (.cbcEnc, .cbcDec),
    (.ofbXcrypt, .ofbXcrypt), (.ctrXcrypt, .ctrXcrypt)] := by decide

/-- KeystreamIndependentOfData: two states that agree on everything but BUF. -/
theorem wit_keystream : let s := region 0 24
    let s' := { s with buf := [(0, 0x5A)] }
    s.regionOk Config.params ∧ s'.rk = s.rk ∧ s'.iv = s.iv ∧ s'.nonce = s.nonce ∧ s'.ctrLo = s.ctrLo ∧ s'.ctrHi = s.ctrHi ∧
      s'.bufAddr = s.bufAddr ∧ s'.len = s.len ∧ s'.buf ≠ s.buf :=
  ⟨wit_regionOk.2.1, rfl, rfl, rfl, rfl, rfl, rfl, rfl, by decide⟩

/-- ModePrologueRejects: lengths 1, 23 and 25; a good length with a misaligned address, and with a region that
ends beyond BUF. -/
theorem wit_prologueRejects : ([1, 23, 25] : List Word).all (fun l => l.toNat % 24 != 0) = true ∧
    ((region 2 24).len.toNat % 24 = 0 ∧ (region 2 24).bufAddr.toNat % 4 ≠ 0) ∧
    (let s := region (BitVec.ofNat 32 Config.params.bufBytes) 24
     s.len.toNat % 24 = 0 ∧ Config.params.bufBytes < s.bufAddr.toNat + s.len.toNat) := by
  refine ⟨by decide, by decide, rfl, ?_⟩
  show _ < (BitVec.ofNat 32 Config.params.bufBytes).toNat + 24
  have := bufBytes_word.1
  omega

/-- EmptyRegion: the first and the last address it accepts, a misaligned one, and the first beyond BUF. -/
theorem wit_emptyRegion : (region 0 0).len = 0 ∧
    (let s := region (BitVec.ofNat 32 Config.params.bufBytes) 0
     s.bufAddr.toNat % 4 = 0 ∧ s.bufAddr.toNat ≤ Config.params.bufBytes) ∧
    (region 1 0).bufAddr.toNat % 4 ≠ 0 ∧
    Config.params.bufBytes < (region (BitVec.ofNat 32 (Config.params.bufBytes + 4)) 0).bufAddr.toNat := by
  have hb := bufBytes_bounds Config.params
  have hw := bufBytes_word
  refine ⟨rfl, ⟨?_, ?_⟩, by decide, ?_⟩
  · show (BitVec.ofNat 32 Config.params.bufBytes).toNat % 4 = 0
    omega
  · show (BitVec.ofNat 32 Config.params.bufBytes).toNat ≤ _
    omega
  · show _ < (BitVec.ofNat 32 (Config.params.bufBytes + 4)).toNat
    omega

/-- CbcEncSplits: one block and then the rest of BUF, and no block at all. -/
theorem wit_cbcSplit : (region 0 0).fits Config.params (24 * 1 + 24 * Config.params.bufBlocks.val) ∧
    (region 0 0).fits Config.params (24 * 0 + 24 * 0) := by
  refine ⟨⟨rfl, ?_⟩, rfl, Nat.zero_le _⟩
  show 0 + _ ≤ 24 * (Config.params.bufBlocks.val + 1)
  omega

/-- CommandFrame and OutputsAreNotRead: every command answers a next state from reset, with any CHAIN_OUT. -/
theorem wit_execNext (c : Vector Word 6) : ∀ i : Instr, ∃ t, exec i { State.reset with chainOut := c } = .next t := by
  intro i
  cases i <;> exact ⟨_, rfl⟩

/-- OutputsAreNotRead: a region that the prologue accepts and one that it rejects, each with any CHAIN_OUT. -/
theorem wit_outputs (c : Vector Word 6) : (∃ t, exec .cbcEnc { region 0 0 with chainOut := c } = .next t) ∧
    (region 0 0).regionOk Config.params ∧ (∃ t, exec .ctrXcrypt { region 1 0 with chainOut := c } = .next t) ∧
    ¬(region 1 0).regionOk Config.params :=
  ⟨⟨_, rfl⟩, wit_regionOk.1, ⟨_, rfl⟩, fun h => absurd h.2.1 (by decide)⟩

/-- CompletionStep: pending, idle, and held in reset. -/
theorem wit_completion : ((State.reset.accept 0).busy = true ∧ (State.reset.accept 0).rstLow = false) ∧
    State.reset.busy = false ∧ State.reset.pinLow.rstLow = true := by decide

/-- RejectionChangesOnlyStatus: NOP with CNT = 1 is rejected (V-CT-1). -/
theorem wit_rejection : ∃ t, (State.reset.accept 0x100).err = false ∧ completeCommand (State.reset.accept 0x100) = .next t ∧
    t.err = true := ⟨_, rfl, rfl, rfl⟩

/-- ErrorCodeOrder: pending words that meet its hypotheses and fall under each code the unit can report. -/
theorem wit_errorCodes : (∀ w ∈ [0x26, 0x20, 0x101, 0x00], (State.reset.accept w).err = false ∧ (State.reset.accept w).errCode = 0) ∧
    legal 0x26 = false ∧
    (legal 0x20 = true ∧ 0x20 ≤ opcNat 0x20 ∧ (region 0 1).len.toNat % 24 ≠ 0) ∧
    (legal 0x20 = true ∧ (region 1 0).len.toNat % 24 = 0 ∧ (region 1 0).bufAddr.toNat % 4 ≠ 0) ∧
    (legal 0x101 = true ∧ opcNat 0x101 = 1) ∧ legal 0x00 = true := by
  refine ⟨?_, ?_⟩
  · simp [State.accept, State.reset]
  · decide

/-- InterruptLevel: the W1C of bit 1, an acceptance, and a completion. -/
theorem wit_interrupt : ((2 : Word).getLsbD 1 = true) ∧ State.reset.busy = false ∧
    ∃ t, completeCommand { State.reset with ie := true } = .next t := ⟨by decide, rfl, _, rfl⟩

/-- CmdWriteAccepts, KeyRegistersWriteOnly and BusyAccessRule: idle and busy; and KEYEXP and KEYCLR complete. -/
theorem wit_idleBusy : State.reset.busy = false ∧ (State.reset.accept 0x10).busy = true ∧
    (∃ t, exec .keyexp State.reset = .next t) ∧ ∃ t, exec .keyclr State.reset = .next t := ⟨rfl, rfl, ⟨_, rfl⟩, _, rfl⟩

/-- CtrlIdParamRegisters: TP1 has the default BUF_BYTES. -/
theorem wit_param : tp1.bufBytes = 3072 ∧ paramWord tp1 = 0x0C000818 := by decide +kernel

/-- WordsReadBack: the first and the last word of each of its three ranges. -/
theorem wit_readBack : State.reset.busy = false ∧ ([0x010, 0x01C] : List BusAddr).all (fun a => decide (a.toNat % 4 = 0 ∧ 0x010 ≤ a.toNat ∧ a.toNat < 0x020)) = true ∧
    ([0x040, 0x060] : List BusAddr).all (fun a => decide (a.toNat % 4 = 0 ∧ 0x040 ≤ a.toNat ∧ a.toNat < 0x064)) = true ∧
    ((0x1000 : BusAddr).toNat % 4 = 0 ∧ (0x1000 : BusAddr).toNat + 4 ≤ 0x1000 + Config.params.bufBytes) ∧
    (let a : BusAddr := BitVec.ofNat 13 (0x1000 + (Config.params.bufBytes - 4))
     a.toNat % 4 = 0 ∧ 0x1000 ≤ a.toNat ∧ a.toNat + 4 ≤ 0x1000 + Config.params.bufBytes) := by
  have := bufBytes_bounds Config.params
  refine ⟨rfl, by decide, by decide, ⟨rfl, by show 4096 + 4 ≤ _; omega⟩, ?_⟩
  have e : (BitVec.ofNat 13 (0x1000 + (Config.params.bufBytes - 4))).toNat = 0x1000 + (Config.params.bufBytes - 4) := by
    rw [BitVec.toNat_ofNat, Nat.mod_eq_of_lt (by omega)]
  simp only [e]
  omega

/-- BufWindowLittleEndian: the first and the last word of BUF, as words 0 and 5 of a block. -/
theorem wit_bufWindow : (0 % 4 = 0 ∧ 0 + 4 ≤ Config.params.bufBytes ∧ 0 = 0 + 4 * (0 : Fin 6).val ∧ 0 + 24 ≤ Config.params.bufBytes) ∧
    (let o := Config.params.bufBytes - 4
     o % 4 = 0 ∧ o + 4 ≤ Config.params.bufBytes ∧ o = Config.params.bufBytes - 24 + 4 * (5 : Fin 6).val ∧
      Config.params.bufBytes - 24 + 24 ≤ Config.params.bufBytes) := by
  have := bufBytes_bounds Config.params
  refine ⟨⟨rfl, by omega, rfl, by omega⟩, ?_⟩
  show (Config.params.bufBytes - 4) % 4 = 0 ∧ Config.params.bufBytes - 4 + 4 ≤ Config.params.bufBytes ∧
    Config.params.bufBytes - 4 = Config.params.bufBytes - 24 + 4 * 5 ∧ _
  omega

/-- MisalignedRefused and ReservedRefused, at the bounds of each range. -/
theorem wit_refused : ([0x001, 0x002, 0x007, 0x1FFF] : List BusAddr).all (fun a => a.toNat % 4 != 0) = true ∧ (0x06C : BusAddr).toNat = 0x06C ∧
    ([0x08C, 0xFFC] : List BusAddr).all (fun a => decide (0x08C ≤ a.toNat ∧ a.toNat ≤ 0x0FFC)) = true ∧
    0x1000 + Config.params.bufBytes ≤ (0x1FFC : BusAddr).toNat := by
  have := bufBytes_bounds Config.params
  refine ⟨by decide, rfl, by decide, ?_⟩
  show _ ≤ 8188
  omega

/-- BusyAccessRule: the addresses of each of its clauses, aligned, with a command pending. -/
theorem wit_busyAccess : (State.reset.accept 0).busy = true ∧
    ([0x000, 0x004, 0x008, 0x00C, 0x088] : List BusAddr).all (fun a =>
      decide (a.toNat % 4 = 0 ∧ a.toNat ∈ [0x000, 0x004, 0x008, 0x00C, 0x088])) = true ∧
    ([0x010, 0x084, 0x08C, 0x1000, 0x1FFC] : List BusAddr).all (fun a =>
      decide (a.toNat % 4 = 0 ∧ a.toNat ∉ [0x000, 0x004, 0x008, 0x00C, 0x088])) = true := by
  decide

/-- ReadSideEffects: a read that is accepted and one that is refused. -/
theorem wit_readSideEffects : State.readRefused Config.params State.reset 0x000 = false ∧
    State.readRefused Config.params State.reset 0x06C = true := by decide

/-- ResetEvent: out of reset; in reset with the values; and the values. -/
theorem wit_resetEvent : State.reset.rstLow = false ∧ State.reset.pinLow.rstLow = true ∧ State.reset.pinLow.atResetValues ∧
    State.reset.atResetValues := ⟨rfl, rfl, rfl, rfl⟩

/-- StepRunsDecodedCommand: RF.ADV 1 and RF.REV 8 pending, with no turn waiting and with the unit's turn first. -/
theorem wit_stepRuns : let s := State.reset.withFetchWord 32 0x101
    let r := { State.reset.withFetchWord 32 0x802 with events := [.unit, .rstAssert] }
    (s.busy = true ∧ s.rstLow = false ∧ decode s.cmd = .ok (.rfAdv 1) ∧ s.events = [] ∧ (Instr.rfAdv 1).wellFormed = true) ∧
    (r.busy = true ∧ r.rstLow = false ∧ decode r.cmd = .ok (.rfRev 8) ∧ r.events = .unit :: [.rstAssert] ∧
      (Instr.rfRev 8).wellFormed = true) := by decide

/-- StepRunsDecodedCommand, the other turns: each kind first in the list, out of reset and in reset. -/
theorem wit_turns : (∀ e : Event, ∃ s : State, s.rstLow = false ∧ s.busy = false ∧ s.events = e :: [.unit]) ∧
    ∀ e : Event, ∃ s : State, s.rstLow = true ∧ s.events = e :: [.unit] :=
  ⟨fun e => ⟨{ State.reset with events := [e, .unit] }, rfl, rfl, rfl⟩,
    fun e => ⟨{ State.reset.pinLow with events := [e, .unit] }, rfl, rfl⟩⟩

/-- StepKeepsInvariant and PendingCommandCompletes: KEYCLR pending on a keyed unit, with turns waiting. -/
def pendingKeyclr : State :=
  { State.reset with
    cmd := 0x11, busy := true, keyed := true, rk := Vector.replicate 192 1, events := [.read 0x004, .unit] }

theorem wit_invariant : pendingKeyclr.Inv Config.params ∧ ∃ t, step pendingKeyclr = .next t := by
  refine ⟨⟨⟨Memory.wf_nil, fun c h => absurd h (List.not_mem_nil)⟩, ⟨fun _ => rfl, fun h => ?_⟩, ?_, fun _ => ⟨rfl, rfl⟩,
    fun h => ?_, fun h => ?_⟩, _, rfl⟩
  · cases h
  · decide
  · cases h
  · cases h

/-- RoundKeysChangeOnlyByKeyCommands: RK changes when KEYCLR completes, and when the pin goes low. -/
theorem wit_rkChanges : (∃ t, step { pendingKeyclr with events := [] } = .next t ∧ t.rk ≠ pendingKeyclr.rk) ∧
    ∃ t, step { pendingKeyclr with events := [.rstAssert] } = .next t ∧ t.rk ≠ pendingKeyclr.rk := by
  refine ⟨⟨_, rfl, ?_⟩, _, rfl, ?_⟩ <;> decide +kernel

end Sys2Proof.Tests
end

-- What a completion writes (spec/10_state.md R42), and what every turn leaves.
section
/-! Frame rules of the command's operation and of its completion step, said once over all twelve commands. -/

namespace Sys2Proof.Machine

/-- `t` is `s` but for what the operation of a command may write: BUF, the key context, KEY, CHAIN_OUT and CTR_OUT
(R42, R43). STATUS is not among these, since the completion step writes it. -/
def State.operated (s t : State) : Prop :=
  t = { s with
    buf := t.buf, key := t.key, rk := t.rk, keyed := t.keyed, chainOut := t.chainOut, ctrOutLo := t.ctrOutLo,
    ctrOutHi := t.ctrOutHi }

/-- `t` is `s` after a completion step, successful or not: BUSY clear, DONE set, and changed only in the error report
and in what an operation may write (R300, R42). -/
def State.completedTo (s t : State) : Prop :=
  t = { s with
    busy := false, done := true, err := t.err, errCode := t.errCode, buf := t.buf, key := t.key, rk := t.rk,
    keyed := t.keyed, chainOut := t.chainOut, ctrOutLo := t.ctrOutLo, ctrOutHi := t.ctrOutHi }

section completedTo
variable {s t : State}

theorem State.completedTo.busy_eq (h : s.completedTo t) : t.busy = false := congrArg State.busy h

theorem State.completedTo.events_eq (h : s.completedTo t) : t.events = s.events := by
  unfold State.completedTo at h
  rw [h]

theorem State.operated.succeed (h : s.operated t) : s.completedTo t.succeed := by
  unfold State.operated at h
  unfold State.completedTo
  rw [h]
  rfl

theorem State.reject_completedTo (s : State) (c : RejectCode) : s.completedTo (s.reject c) := rfl

/-- The completion step around an operation that keeps the frame. -/
theorem State.complete_completedTo {r : Except RejectCode State} (h : ∀ t, r = .ok t → s.operated t) :
    s.completedTo (s.complete r) := by
  cases r with
  | ok t => exact (h t rfl).succeed
  | error c => exact s.reject_completedTo c

end completedTo

/-- The key commands write the key context and KEY (R180, R181). -/
theorem State.setContext_clearKey_operated (s : State) (rk : RoundKeys) (keyed : Bool) :
    s.operated (s.setContext rk keyed).clearKey := rfl

/-- The operation of a command, apart from its completion step. -/
def operation (P : Params) (i : Instr) (s : State) : Except RejectCode State :=
  match i with
  | .nop => nopCommand s
  | .rfAdv cnt => rfAdvCommand P cnt s
  | .rfRev cnt => rfRevCommand P cnt s
  | .tblchk => tblchkCommand P s
  | .keyexp => keyexpCommand P s
  | .keyclr => keyclrCommand s
  | .ecbEnc => ecbEncCommand P s
  | .ecbDec => ecbDecCommand P s
  | .cbcEnc => cbcEncCommand P s
  | .cbcDec => cbcDecCommand P s
  | .ofbXcrypt => ofbXcryptCommand P s
  | .ctrXcrypt => ctrXcryptCommand P s

/-- Every command is its operation inside the completion step, and never a fault (R300). -/
theorem exec_eq_complete (i : Instr) (s : State) :
    exec i s = .next (s.complete (operation Config.params i s)) := by
  cases i <;> rfl

theorem blockCommand_operated {P : Params} {f : Block → Block} {cnt : BitVec 4} {s t : State}
    (h : blockCommand P f cnt s = .ok t) : s.operated t := by
  rcases blockCommand_cases P f cnt s with ⟨e, -⟩ | ⟨e, -⟩ | ⟨-, -, -, e⟩ <;> rw [e] at h <;> cases h
  rfl

/-- A mode command keeps the frame when its report of the last chaining value does. -/
theorem modeCommand_operated {σ : Type} {P : Params} {f : σ → Block → Block × σ} {c : σ}
    {report : σ → State → State} {s t : State} (h : modeCommand P f c report s = .ok t)
    (hr : ∀ d m, s.operated (report d { s with buf := m })) : s.operated t := by
  rcases modeCommand_cases P f c report s with ⟨e, -⟩ | ⟨e, -⟩ | ⟨-, -, -, e⟩ <;> rw [e] at h <;> cases h
  exact hr _ _

/-- The frame of every command (R42): registers that no command writes, the pin and the waiting turns stay. -/
theorem operation_operated {P : Params} {i : Instr} {s t : State} (h : operation P i s = .ok t) :
    s.operated t := by
  cases i with
  | nop => cases h; rfl
  | keyexp | keyclr =>
    obtain rfl := Except.ok.inj h
    exact s.setContext_clearKey_operated _ _
  | tblchk =>
    have h' : tblchkCommand P s = .ok t := h
    rw [tblchkCommand, if_pos (tablesMatch_true P)] at h'
    cases h'; rfl
  | rfAdv | rfRev => exact blockCommand_operated h
  | ecbEnc | ecbDec => exact modeCommand_operated (c := ()) (report := fun _ t => t) h fun _ _ => rfl
  | cbcEnc | cbcDec | ofbXcrypt | ctrXcrypt =>
    exact modeCommand_operated h fun _ _ => rfl

/-- Every pending word completes (R300, R95): a legal command by its operation, any other word by its rejection. -/
theorem completeCommand_completes (s : State) : ∃ t, completeCommand s = .next t ∧ s.completedTo t := by
  unfold completeCommand
  split
  · exact ⟨_, exec_eq_complete _ s, State.complete_completedTo fun _ => operation_operated⟩
  · exact ⟨_, rfl, s.reject_completedTo .illegal⟩

end Sys2Proof.Machine
end

-- Liveness of the completion step (spec/00_scope.md R16, spec/70_reset_and_hazards.md R350).
section
/-! No command is pending while the pin is low; every turn keeps that and is answered by a next state; so a run that
outlasts the waiting turns ends with the unit's own turn, which leaves no command pending. -/

namespace Sys2Proof.Machine

/-- No command is pending in reset (R350): the part of the invariant on which the liveness of the unit rests, since
a command that is pending in reset would never complete. -/
def State.idleInReset (s : State) : Prop := s.rstLow = true → s.busy = false

section idleInReset
variable {s t : State}

theorem State.Inv.idleInReset {P : Params} (h : s.Inv P) : s.idleInReset := fun hlow =>
  congrArg State.busy (h.heldInReset hlow)

theorem State.idleInReset_of_idle (h : s.busy = false) : s.idleInReset := fun _ => h

/-- A change that leaves the pin, and BUSY while the pin is low, keeps the property. -/
theorem State.idleInReset.congr (h : s.idleInReset) (hpin : t.rstLow = s.rstLow)
    (hbusy : s.rstLow = true → t.busy = s.busy) : t.idleInReset := fun hlow =>
  have hlow' : s.rstLow = true := hpin ▸ hlow
  (hbusy hlow').trans (h hlow')

end idleInReset

section turns
variable (P : Params) (a : BusAddr) (d : Word) (s : State)

theorem State.writeTarget_rstLow (x : Target) : (s.writeTarget P d x).rstLow = s.rstLow := by cases x <;> rfl

theorem State.writeTarget_events (x : Target) : (s.writeTarget P d x).events = s.events := by cases x <;> rfl

/-- What a host read leaves, refused or not (R69). -/
theorem State.hostRead_frame :
    (s.hostRead P a).2.rstLow = s.rstLow ∧ (s.hostRead P a).2.busy = s.busy ∧
      (s.hostRead P a).2.events = s.events := by
  unfold State.hostRead
  split <;> exact ⟨rfl, rfl, rfl⟩

/-- What a host write leaves, refused or not. -/
theorem State.hostWrite_frame :
    (s.hostWrite P a d).rstLow = s.rstLow ∧ (s.hostWrite P a d).events = s.events := by
  unfold State.hostWrite
  split
  · exact ⟨rfl, rfl⟩
  · exact ⟨s.writeTarget_rstLow P d _, s.writeTarget_events P d _⟩

/-- A read transaction changes neither the pin, nor BUSY, nor the waiting turns. -/
theorem State.readTransaction_frame :
    (s.readTransaction P a).rstLow = s.rstLow ∧ (s.readTransaction P a).busy = s.busy ∧
      (s.readTransaction P a).events = s.events := by
  unfold State.readTransaction
  split
  · exact ⟨rfl, rfl, rfl⟩
  · exact s.hostRead_frame P a

/-- A write transaction changes neither the pin nor the waiting turns, and in reset it accepts no command (R350). -/
theorem State.writeTransaction_frame :
    (s.writeTransaction P a d).rstLow = s.rstLow ∧
      (s.rstLow = true → (s.writeTransaction P a d).busy = s.busy) ∧
      (s.writeTransaction P a d).events = s.events := by
  unfold State.writeTransaction
  split
  · exact ⟨rfl, fun _ => rfl, rfl⟩
  · rename_i hhigh
    obtain ⟨hpin, hevents⟩ := s.hostWrite_frame P a d
    exact ⟨hpin, fun hlow => absurd hlow hhigh, hevents⟩

theorem State.pinLow_events : s.pinLow.events = s.events := by
  unfold State.pinLow
  split <;> rfl

variable {s}

/-- The falling edge abandons the pending command (R350), and a pin held low changes nothing. -/
theorem State.idleInReset.pinLow (h : s.idleInReset) : s.pinLow.idleInReset := by
  unfold State.pinLow
  split
  · exact h
  · exact State.idleInReset_of_idle rfl

/-- After the unit's turn no command is pending (R300): it completed one, or there was none. -/
theorem unitTurn_idle (h : s.idleInReset) :
    ∃ t, unitTurn s = .next t ∧ t.busy = false ∧ t.events = s.events := by
  unfold unitTurn
  split
  · obtain ⟨t, ht, hdone⟩ := completeCommand_completes s
    exact ⟨t, ht, hdone.busy_eq, hdone.events_eq⟩
  · rename_i hoff
    refine ⟨s, rfl, ?_, rfl⟩
    cases hbusy : s.busy with
    | false => rfl
    | true =>
      have hlow : s.rstLow = true := by simpa [State.enabled, hbusy] using hoff
      exact hbusy.symm.trans (h hlow)

/-- Every turn of every agent answers a next state, takes no other waiting turn, and leaves no command pending in
reset. -/
theorem turn_keeps_idleInReset (e : Event) (h : s.idleInReset) :
    ∃ t, turn P e s = .next t ∧ t.idleInReset ∧ t.events = s.events := by
  cases e with
  | read a =>
    obtain ⟨hpin, hbusy, hevents⟩ := s.readTransaction_frame P a
    exact ⟨_, rfl, h.congr hpin fun _ => hbusy, hevents⟩
  | write a d =>
    obtain ⟨hpin, hbusy, hevents⟩ := s.writeTransaction_frame P a d
    exact ⟨_, rfl, h.congr hpin hbusy, hevents⟩
  | unit =>
    obtain ⟨t, ht, hidle, hevents⟩ := unitTurn_idle h
    exact ⟨t, ht, State.idleInReset_of_idle hidle, hevents⟩
  | rstAssert => exact ⟨_, rfl, h.pinLow, s.pinLow_events⟩
  | rstRelease => exact ⟨_, rfl, nofun, s.releaseReset_events⟩

end turns

theorem step_of_events_nil {s : State} (h : s.events = []) : step s = unitTurn s := by
  unfold step nextTurn
  rw [h]

theorem step_of_events_cons {s : State} {e : Event} {rest : List Event} (h : s.events = e :: rest) :
    step s = turn Config.params e { s with events := rest } := by
  unfold step nextTurn
  rw [h]

theorem run_succ_of_step {s t : State} (h : step s = .next t) (k : Nat) :
    Host.Core.run Sys2Proof.core (k + 1) s = Host.Core.run Sys2Proof.core k t := by
  have hcore : Sys2Proof.core.step s = .next t := h
  simp only [Host.Core.run, hcore]

/-- The waiting turns are taken one by one, and then the unit's turn comes (R16). -/
theorem run_events_idle (es : List Event) (s : State) (hs : s.events = es) (h : s.idleInReset) :
    ∃ t, Host.Core.run Sys2Proof.core (es.length + 1) s = .next t ∧ t.busy = false ∧ t.events = [] := by
  induction es generalizing s with
  | nil =>
    obtain ⟨t, ht, hidle, hevents⟩ := unitTurn_idle h
    exact ⟨t, run_succ_of_step ((step_of_events_nil hs).trans ht) 0, hidle, hevents.trans hs⟩
  | cons e rest ih =>
    have hrest : State.idleInReset { s with events := rest } := h
    obtain ⟨m, hm, hkeep, hevents⟩ := turn_keeps_idleInReset Config.params e hrest
    obtain ⟨t, ht, hend⟩ := ih m hevents hkeep
    exact ⟨t, (run_succ_of_step ((step_of_events_cons hs).trans hm) _).trans ht, hend⟩

/-- Settles O59, by induction on the waiting turns, from the part of the invariant that says no command is pending in
reset. -/
theorem pendingCommandCompletes : Obligations.PendingCommandCompletes := fun s hinv =>
  run_events_idle s.events s rfl hinv.idleInReset

end Sys2Proof.Machine
end

-- The map of R22 read both ways (spec/10_state.md R22, R37).
section
/-! Each target has one address and each aligned address at most one target; so an access at a target's address is that
target's read or write. -/

namespace Sys2Proof.Machine

/-- The bus address of a target: the map of R22 read the other way. A reserved target has no address of its own. -/
def Target.offset : Target → Nat
  | .cmd => 0x000
  | .status => 0x004
  | .ctrl => 0x008
  | .id => 0x00C
  | .bufAddr => 0x010
  | .len => 0x014
  | .ctrLo => 0x018
  | .ctrHi => 0x01C
  | .key n => 0x020 + 4 * n.val
  | .iv n => 0x040 + 4 * n.val
  | .nonce n => 0x058 + 4 * n.val
  | .ctrOutLo => 0x064
  | .ctrOutHi => 0x068
  | .chainOut n => 0x070 + 4 * n.val
  | .param => 0x088
  | .buf o => 0x1000 + o
  | .reserved => 0

/-- The targets that the map has: every register, and the aligned words that lie whole in BUF. -/
def Target.mapped (P : Params) : Target → Prop
  | .buf o => o % 4 = 0 ∧ o + 4 ≤ P.bufBytes
  | .reserved => False
  | _ => True

theorem Target.mapped.ne_reserved {P : Params} {x : Target} (h : x.mapped P) : x ≠ .reserved := by
  rintro rfl
  exact h

theorem Target.mapped.offset_aligned {P : Params} {x : Target} (h : x.mapped P) : x.offset % 4 = 0 := by
  cases x with
  | buf o =>
    obtain ⟨ho, -⟩ := h
    show (0x1000 + o) % 4 = 0
    omega
  | reserved => exact h.elim
  | key n | iv n | nonce n | chainOut n => fin_cases n <;> rfl
  | _ => rfl

/-- Every target is at its own address. -/
theorem targetOf_offset {P : Params} {x : Target} (h : x.mapped P) : targetOf P x.offset = x := by
  cases x with
  | key n | iv n | nonce n | chainOut n => fin_cases n <;> rfl
  | buf o => exact targetOf_buf h.2
  | reserved => exact h.elim
  | _ => rfl

/-- What the map answers at an aligned offset: a target of the map at this very address, or the reserved one. -/
def Target.standsAt (P : Params) (o : Nat) (x : Target) : Prop := x = .reserved ∨ x.mapped P ∧ x.offset = o

theorem targetOf_standsAt {P : Params} {o : Nat} (ho : o % 4 = 0) : (targetOf P o).standsAt P o := by
  unfold targetOf
  iterate 8 refine iteInduction (fun h => .inr ⟨trivial, h.symm⟩) fun _ => ?_
  iterate 3
    split
    · refine .inr ⟨trivial, ?_⟩
      simp only [Target.offset]
      omega
  iterate 2 refine iteInduction (fun h => .inr ⟨trivial, h.symm⟩) fun _ => ?_
  split
  · refine .inr ⟨trivial, ?_⟩
    simp only [Target.offset]
    omega
  refine iteInduction (fun h => .inr ⟨trivial, h.symm⟩) fun _ => ?_
  refine iteInduction (fun h => .inr ⟨⟨?_, h.2⟩, ?_⟩) fun _ => .inl rfl
  · omega
  · simp only [Target.offset]
    omega

theorem targetOf_reserved {P : Params} {o : Nat} (ho : o % 4 = 0)
    (h : o = 0x06C ∨ 0x08C ≤ o ∧ o ≤ 0x0FFC ∨ 0x1000 + P.bufBytes ≤ o) : targetOf P o = .reserved := by
  refine (targetOf_standsAt ho).resolve_right fun hx => ?_
  generalize targetOf P o = x at hx
  obtain ⟨hmap, hoff⟩ := hx
  cases x with
  | buf k =>
    obtain ⟨-, hfit⟩ := hmap
    simp only [Target.offset] at hoff
    omega
  | reserved => exact hmap
  | _ => simp only [Target.offset] at hoff; omega

theorem Target.mapped.addr_toNat {P : Params} {x : Target} (h : x.mapped P) :
    (BitVec.ofNat 13 x.offset).toNat = x.offset := by
  refine Nat.mod_eq_of_lt ?_
  cases x with
  | buf o =>
    obtain ⟨-, hfit⟩ := h
    have hsize := bufBytes_bounds P
    simp only [Target.offset]
    omega
  | _ => simp only [Target.offset]; omega

/-- The map at the bus address of a target. -/
theorem targetOf_addr {P : Params} {x : Target} (h : x.mapped P) :
    targetOf P (BitVec.ofNat 13 x.offset).toNat = x := by
  rw [h.addr_toNat, targetOf_offset h]

section access
variable {P : Params} {s : State} {x : Target}

/-- An allowed read at the address of a target returns it and has no effect (R68, R69). -/
theorem hostRead_offset (h : x.mapped P) (hb : s.busy = false ∨ x.readableBusy = true) :
    s.hostRead P (BitVec.ofNat 13 x.offset) = (s.readTarget P x, s) := by
  have hr : s.readRefused P (BitVec.ofNat 13 x.offset) = false := by
    rw [← Bool.not_eq_true, readRefused_iff, targetOf_addr h, h.addr_toNat]
    rintro (hmis | ⟨hbusy, hnot⟩ | hres)
    · exact hmis h.offset_aligned
    · simp [hbusy, hnot] at hb
    · exact h.ne_reserved hres
  rw [hostRead_accepted hr, targetOf_addr h]

/-- An allowed write at the address of a target is the target's write (R68). -/
theorem hostWrite_offset (d : Word) (h : x.mapped P) (hb : s.busy = false ∨ x.writableBusy = true) :
    s.hostWrite P (BitVec.ofNat 13 x.offset) d = s.writeTarget P d x := by
  have hr : s.writeRefused P (BitVec.ofNat 13 x.offset) = false := by
    rw [← Bool.not_eq_true, writeRefused_iff, targetOf_addr h, h.addr_toNat]
    rintro (hmis | ⟨hbusy, hnot⟩ | hres)
    · exact hmis h.offset_aligned
    · simp [hbusy, hnot] at hb
    · exact h.ne_reserved hres
  rw [hostWrite_accepted d hr, targetOf_addr h]

end access

/-- Settles O42, by the register's own address; busy, the write is one of the refused ones. -/
theorem cmdWriteAccepts : Obligations.CmdWriteAccepts := by
  refine ⟨fun s w => ⟨fun hidle => ?_, fun hbusy => ?_, ?_⟩, rfl⟩
  · exact hostWrite_offset (x := .cmd) w trivial (.inl hidle)
  · exact hostWrite_refused w ((writeRefused_iff _ _ _).mpr (.inr (.inl ⟨hbusy, rfl⟩)))
  · exact hostRead_offset (x := .cmd) trivial (.inr rfl)

/-- Settles O49, by the alignment of the address: a misaligned one is refused wherever it is, and an aligned one names
no target. -/
theorem reservedRefused : Obligations.ReservedRefused := by
  intro s a d ha
  have hbad : a.toNat % 4 ≠ 0 ∨ targetOf Config.params a.toNat = .reserved := by
    by_cases h4 : a.toNat % 4 = 0
    · exact .inr (targetOf_reserved h4 ha)
    · exact .inl h4
  exact ⟨hostRead_refused ((readRefused_iff _ _ _).mpr (hbad.imp_right .inr)),
    hostWrite_refused d ((writeRefused_iff _ _ _).mpr (hbad.imp_right .inr))⟩

end Sys2Proof.Machine
end

-- STATUS, CTRL, ID and PARAM (spec/10_state.md R24, R25, R27, R28), and the reset values (R43).
section
/-! The bits of the words that the control registers read, and the state after reset. -/

namespace Sys2Proof.Machine

/-- A flag sits in its own bit and in no other. -/
@[simp] theorem flagBit_getElem (b : Bool) (n i : Nat) (hi : i < 32) :
    (flagBit b n)[i] = (b && decide (i = n)) := by
  simp only [flagBit, BitVec.getElem_shiftLeft, BitVec.getElem_setWidth, BitVec.getLsbD_ofBool]
  grind

/-- Every bit of the word that STATUS reads (R24). -/
@[simp] theorem statusWord_getElem (s : State) (i : Nat) (hi : i < 32) :
    s.statusWord[i] = (s.busy && decide (i = 0) || s.done && decide (i = 1) || s.err && decide (i = 2)
      || s.accErr && decide (i = 3) || s.keyed && decide (i = 4) || !decide (i < 8) && s.errCode.getLsbD (i - 8)) := by
  simp [State.statusWord]

/-- ERRCODE is bits 11:8 of STATUS, and the bits between it and the flags, and above it, read 0 (R24). -/
theorem statusWord_fields (s : State) :
    s.statusWord.extractLsb' 5 3 = 0 ∧ s.statusWord.extractLsb' 8 4 = s.errCode ∧
      s.statusWord.extractLsb' 12 20 = 0 := by
  refine ⟨?_, ?_, ?_⟩ <;> ext i hi <;>
    rw [BitVec.getElem_extractLsb', BitVec.getLsbD_eq_getElem (by omega), statusWord_getElem]
  · grind
  · grind
  · have habove : s.errCode.getLsbD (12 + i - 8) = false := BitVec.getLsbD_of_ge _ _ (by omega)
    grind

/-- A write of STATUS, flag by flag: a 1 in the flag's bit clears it (R24). -/
theorem State.writeStatus_eq (d : Word) (s : State) : s.writeStatus d = { s with
    done := if d.getLsbD 1 then false else s.done
    err := if d.getLsbD 2 then false else s.err
    errCode := if d.getLsbD 2 then 0 else s.errCode
    accErr := if d.getLsbD 3 then false else s.accErr } := by
  have hclear (b c : Bool) : (b && !c) = if c then false else b := by cases c <;> simp
  simp only [State.writeStatus, hclear]

/-- Settles O43, by the bits of the status word and the write of each flag. -/
theorem statusReadAndClear : Obligations.StatusReadAndClear := by
  intro s
  obtain ⟨hgap, hcode, htop⟩ := statusWord_fields s
  refine ⟨⟨s.statusWord, hostRead_offset (x := .status) trivial (.inr rfl), ?_, ?_, ?_, ?_, ?_, hgap, hcode, htop⟩,
    fun d => (hostWrite_offset (x := .status) d trivial (.inr rfl)).trans (s.writeStatus_eq d)⟩ <;>
    simp

/-- PARAM's three fields do not overlap (R28). -/
theorem paramWord_toNat (P : Params) : (paramWord P).toNat = P.bufBytes * 2 ^ 16 + 8 * 2 ^ 8 + 24 := by
  have hsize := bufBytes_bounds P
  have hlow : (BitVec.ofNat 32 blockBytes ||| BitVec.ofNat 32 numRounds <<< 8).toNat = 8 * 2 ^ 8 + 24 := by decide
  have hhigh : (BitVec.ofNat 32 P.bufBytes <<< 16).toNat = P.bufBytes <<< 16 := by
    simp only [BitVec.toNat_shiftLeft, BitVec.toNat_ofNat, Nat.shiftLeft_eq]
    omega
  rw [paramWord, BitVec.toNat_or, hlow, hhigh, Nat.or_comm, ← Nat.shiftLeft_add_eq_or_of_lt (by decide),
    Nat.shiftLeft_eq]
  omega

/-- Settles O44, by the registers' own addresses; the fields of PARAM are read off its value as a number. -/
theorem ctrlIdParamRegisters : Obligations.CtrlIdParamRegisters := by
  refine ⟨fun s d => ⟨?_, ?_, ?_, ?_, ?_⟩, rfl, fun P s => ⟨paramWord P, ?_, ?_⟩⟩
  · exact hostWrite_offset (x := .ctrl) d trivial (.inr rfl)
  · have hword : s.ctrlWord = if s.ie then 1 else 0 := by cases h : s.ie <;> simp only [State.ctrlWord, h] <;> rfl
    rw [← hword]
    exact hostRead_offset (x := .ctrl) trivial (.inr rfl)
  · exact hostRead_offset (x := .id) trivial (.inr rfl)
  · exact hostWrite_offset (x := .id) d trivial (.inr rfl)
  · exact hostWrite_offset (x := .param) d trivial (.inr rfl)
  · exact hostRead_offset (x := .param) trivial (.inr rfl)
  · have hword := paramWord_toNat P
    refine ⟨by omega, by omega, by omega, fun hsize => ?_⟩
    rw [← BitVec.toNat_inj, hword, hsize]
    rfl

/-- Settles O53, by the value of each field; ID and PARAM by their own addresses. -/
theorem resetValues : Obligations.ResetValues := by
  have hzero {n : Nat} (i : Fin n) : (Vector.replicate n (0 : Word))[i] = 0 := Vector.getElem_replicate ..
  refine ⟨rfl, rfl, rfl, rfl, rfl, rfl, rfl, hzero, hzero, hzero, rfl, rfl, hzero,
    fun n => Vector.getElem_replicate .., rfl, rfl, rfl, fun P => ⟨?_, ?_⟩⟩
  · exact hostRead_offset (x := .id) trivial (.inr rfl)
  · exact hostRead_offset (x := .param) trivial (.inr rfl)

/-- Settles O58: nothing is listed in BUF, no error is reported, no command is pending, and RK is the placeholder. -/
theorem resetHasInvariant : Obligations.ResetHasInvariant := by
  intro es n
  exact {
    bufOk := ⟨Memory.wf_nil, nofun⟩
    reportOk := ⟨fun _ => rfl, nofun⟩
    noTableError := (by decide : (0 : BitVec 4) ≠ 4)
    pendingOk := nofun
    placeholderOk := fun _ => rfl
    heldInReset := nofun }

end Sys2Proof.Machine
end

-- A word written is read back (spec/10_state.md R29 to R36, spec/20_memory.md R66, R71).
section
/-! A write to an operand register or to BUF changes what one target reads, and what no other target reads. -/

namespace Sys2Proof.Machine

theorem byteOf_toNat (v : Word) (k : Nat) : (byteOf v k).toNat = v.toNat / 2 ^ (8 * k) % 256 := by
  simp [byteOf, Nat.shiftRight_eq_div_pow]

/-- Loading undoes storing (R120). -/
theorem load32le_byteOf (v : Word) : load32le (byteOf v 0) (byteOf v 1) (byteOf v 2) (byteOf v 3) = v := by
  ext i hi
  simp only [load32le, byteOf, mul_zero, mul_one, Nat.reduceMul, BitVec.getElem_or, BitVec.getElem_setWidth,
    BitVec.getLsbD_extractLsb', zero_add, BitVec.getElem_shiftLeft]
  grind

theorem wordBytes_getElem (v : Word) (k : Nat) (hk : k < 4) : (wordBytes v)[k] = byteOf v k := by simp [wordBytes]

/-- What MemWrite does to every byte of BUF (R63). -/
theorem State.byteAt_memWrite {n : Nat} (P : Params) (s : State) (a o : Nat) (v : Vector Byte n) :
    (s.memWrite P a v).byteAt P o = if h : a ≤ o ∧ o < a + n then v[o - a]'(by omega) else s.byteAt P o :=
  Memory.read_writeN _ a o v

/-- What a word written to BUF leaves at each of its four bytes (R66). -/
theorem State.byteAt_memWrite_wordBytes (P : Params) (s : State) (d : Word) (o k : Nat) (hk : k < 4) :
    (s.memWrite P o (wordBytes d)).byteAt P (o + k) = byteOf d k := by
  rw [State.byteAt_memWrite, dif_pos (by omega), wordBytes_getElem _ _ (by omega), Nat.add_sub_cancel_left]

theorem State.byteAt_memWrite_outside {n : Nat} (P : Params) (s : State) (a o : Nat) (v : Vector Byte n)
    (h : o < a ∨ a + n ≤ o) : (s.memWrite P a v).byteAt P o = s.byteAt P o := by
  rw [State.byteAt_memWrite, dif_neg (by omega)]

/-- The targets whose word is the last one written there: the operand registers but the keys, and BUF. -/
def Target.readsBack : Target → Prop
  | .bufAddr | .len | .ctrLo | .ctrHi | .iv _ | .nonce _ | .buf _ => True
  | _ => False

section readsBack
variable {P : Params} {s : State} {x y : Target}

theorem writeTarget_busy_of_readsBack (d : Word) (h : x.readsBack) : (s.writeTarget P d x).busy = s.busy := by
  cases x with
  | cmd => exact h.elim
  | _ => rfl

/-- A read of a word of BUF, from its four bytes (R66). -/
theorem readTarget_buf {o : Nat} {f : Nat → Byte} (h : ∀ k < 4, s.byteAt P (o + k) = f k) :
    s.readTarget P (.buf o) = load32le (f 0) (f 1) (f 2) (f 3) := by
  rw [← h 0 (by decide), ← h 1 (by decide), ← h 2 (by decide), ← h 3 (by decide)]
  rfl

theorem readTarget_writeTarget_same (d : Word) (h : x.readsBack) : (s.writeTarget P d x).readTarget P x = d := by
  cases x with
  | bufAddr | len | ctrLo | ctrHi => rfl
  | iv n | nonce n => exact Vector.getElem_set_self ..
  | buf o =>
    exact (readTarget_buf fun k hk => s.byteAt_memWrite_wordBytes P d o k hk).trans (load32le_byteOf d)
  | _ => exact h.elim

theorem readTarget_writeTarget_other (d : Word) (h : x.readsBack) (hx : x.mapped P) (hy : y.mapped P)
    (hne : y ≠ x) : (s.writeTarget P d x).readTarget P y = s.readTarget P y := by
  cases x with
  | bufAddr | len | ctrLo | ctrHi => cases y <;> trivial
  | iv n =>
    cases y with
    | iv m =>
      have hnm : n.val ≠ m.val := fun e => hne (congrArg Target.iv (Fin.ext e.symm))
      show (s.iv.set n d)[m.val] = s.iv[m.val]
      exact Vector.getElem_set_ne n.isLt m.isLt hnm
    | _ => rfl
  | nonce n =>
    cases y with
    | nonce m =>
      have hnm : n.val ≠ m.val := fun e => hne (congrArg Target.nonce (Fin.ext e.symm))
      show (s.nonce.set n d)[m.val] = s.nonce[m.val]
      exact Vector.getElem_set_ne n.isLt m.isLt hnm
    | _ => rfl
  | buf o =>
    cases y with
    | buf o' =>
      obtain ⟨ho, -⟩ := hx
      obtain ⟨ho', -⟩ := hy
      have hoff : o' ≠ o := fun e => hne (e ▸ rfl)
      have hbyte (k : Nat) (hk : k < 4) : (s.memWrite P o (wordBytes d)).byteAt P (o' + k) = s.byteAt P (o' + k) :=
        s.byteAt_memWrite_outside P o (o' + k) _ (by omega)
      exact readTarget_buf (s := s.memWrite P o (wordBytes d)) (f := fun k => s.byteAt P (o' + k)) hbyte
    | _ => rfl
  | _ => exact h.elim
end readsBack

/-- Whether an access is refused depends on BUSY alone. -/
theorem readRefused_congr {P : Params} {s t : State} (h : t.busy = s.busy) (a : BusAddr) :
    t.readRefused P a = s.readRefused P a := by
  simp only [State.readRefused, h]

theorem writeRefused_congr {P : Params} {s t : State} (h : t.busy = s.busy) (a : BusAddr) :
    t.writeRefused P a = s.writeRefused P a := by
  simp only [State.writeRefused, h]

/-- An accepted read is at the address of a target. -/
theorem targetOf_mapped_of_read {P : Params} {s : State} {a : BusAddr} (h : s.readRefused P a = false) :
    (targetOf P a.toNat).mapped P ∧ (targetOf P a.toNat).offset = a.toNat := by
  have hok : ¬ s.readRefused P a = true := by simp [h]
  rw [readRefused_iff, not_or, not_or, not_not] at hok
  obtain ⟨h4, -, hres⟩ := hok
  exact (targetOf_standsAt h4).resolve_left hres

/-- Two states of the same BUSY answer a read alike where the target that it names reads alike. -/
theorem hostRead_fst_congr {P : Params} {s t : State} {a : BusAddr} (hbusy : t.busy = s.busy)
    (h : s.readRefused P a = false → t.readTarget P (targetOf P a.toNat) = s.readTarget P (targetOf P a.toNat)) :
    (t.hostRead P a).1 = (s.hostRead P a).1 := by
  have href := readRefused_congr (P := P) hbusy a
  cases hs : s.readRefused P a with
  | true => rw [hostRead_refused (href.trans hs), hostRead_refused hs]
  | false => rw [hostRead_accepted (href.trans hs), hostRead_accepted hs]; exact h hs

/-- The address ranges of the operand registers but the keys, and of BUF (R22). -/
theorem exists_readsBack_at {P : Params} {o : Nat} (h4 : o % 4 = 0)
    (h : 0x010 ≤ o ∧ o < 0x020 ∨ 0x040 ≤ o ∧ o < 0x064 ∨ 0x1000 ≤ o ∧ o + 4 ≤ 0x1000 + P.bufBytes) :
    ∃ x : Target, x.readsBack ∧ x.mapped P ∧ x.offset = o := by
  rcases h with hreg | hblock | ⟨hlo, hhi⟩
  · obtain rfl | rfl | rfl | rfl : o = 0x010 ∨ o = 0x014 ∨ o = 0x018 ∨ o = 0x01C := by omega
    · exact ⟨.bufAddr, trivial, trivial, rfl⟩
    · exact ⟨.len, trivial, trivial, rfl⟩
    · exact ⟨.ctrLo, trivial, trivial, rfl⟩
    · exact ⟨.ctrHi, trivial, trivial, rfl⟩
  · by_cases hiv : o < 0x058
    · exact ⟨.iv ⟨(o - 0x040) / 4, by omega⟩, trivial, trivial, by simp only [Target.offset]; omega⟩
    · exact ⟨.nonce ⟨(o - 0x058) / 4, by omega⟩, trivial, trivial, by simp only [Target.offset]; omega⟩
  · exact ⟨.buf (o - 0x1000), trivial, ⟨by omega, by omega⟩, by simp only [Target.offset]; omega⟩

/-- A word written to an operand register but a key, or to BUF, reads back, and nothing else that a read can return
has changed. -/
theorem hostRead_hostWrite_readsBack {P : Params} {s : State} {x : Target} (d : Word) (hidle : s.busy = false)
    (hback : x.readsBack) (hx : x.mapped P) :
    let t := s.hostWrite P (BitVec.ofNat 13 x.offset) d
    t.hostRead P (BitVec.ofNat 13 x.offset) = (d, t) ∧
      ∀ a, a ≠ BitVec.ofNat 13 x.offset → (t.hostRead P a).1 = (s.hostRead P a).1 := by
  have hbusy := writeTarget_busy_of_readsBack (P := P) (s := s) d hback
  rw [hostWrite_offset d hx (.inl hidle)]
  refine ⟨?_, fun a hne => hostRead_fst_congr hbusy fun hread => ?_⟩
  · rw [hostRead_offset hx (.inl (hbusy.trans hidle)), readTarget_writeTarget_same d hback]
  · obtain ⟨hmap, hoff⟩ := targetOf_mapped_of_read hread
    refine readTarget_writeTarget_other d hback hx hmap fun he => hne ?_
    rw [← BitVec.toNat_inj, hx.addr_toNat, ← hoff, he]

/-- Settles O46: each register by its own address, and the two clauses over all of them by the target of the address. -/
theorem wordsReadBack : Obligations.WordsReadBack := by
  refine ⟨fun s d hidle => ?_, fun s d a hidle h4 hrange => ?_⟩
  · have at_offset (x : Target) (hx : x.mapped Config.params) :
        s.hostWrite Config.params (BitVec.ofNat 13 x.offset) d = s.writeTarget Config.params d x ∧
        s.hostRead Config.params (BitVec.ofNat 13 x.offset) = (s.readTarget Config.params x, s) :=
      ⟨hostWrite_offset d hx (.inl hidle), hostRead_offset hx (.inl hidle)⟩
    exact ⟨at_offset .bufAddr trivial, at_offset .len trivial, at_offset .ctrLo trivial, at_offset .ctrHi trivial,
      fun n => at_offset (.iv n) trivial, fun n => at_offset (.nonce n) trivial, at_offset .ctrOutLo trivial,
      at_offset .ctrOutHi trivial, fun n => at_offset (.chainOut n) trivial⟩
  · obtain ⟨x, hback, hx, hoff⟩ := exists_readsBack_at h4 hrange
    obtain rfl : a = BitVec.ofNat 13 x.offset := by rw [hoff, BitVec.ofNat_toNat, BitVec.setWidth_eq]
    exact hostRead_hostWrite_readsBack d hidle hback hx

end Sys2Proof.Machine
end

-- The key registers and the key context on the bus (spec/10_state.md R32, R38).
section
/-! KEY0..KEY7 and RK are carried through every access, and no read depends on them. -/

namespace Sys2Proof.Machine

/-- Byte k of word n of the master key (R32, R163). -/
theorem keyOfWords_getElem (u : Words8) (n : Fin 8) (k : Fin 4) :
    (keyOfWords u)[4 * n.val + k.val] = byteOf u[n] k.val := by
  have hword : (4 * n.val + k.val) / 4 = n.val := by omega
  have hbyte : (4 * n.val + k.val) % 4 = k.val := by omega
  simp [keyOfWords, hword, hbyte]

/-- Settles O45, by the register's own address and the bytes of a master-key word; the key commands clear KEY whatever
it held. -/
theorem keyRegistersWriteOnly : Obligations.KeyRegistersWriteOnly := by
  refine ⟨fun s n d hidle => ?_, fun s t i hi h => ?_, rfl⟩
  · have hwrite : s.hostWrite Config.params (BitVec.ofNat 13 (0x020 + 4 * n.val)) d = { s with key := s.key.set n d } :=
      hostWrite_offset (x := .key n) d trivial (.inl hidle)
    refine ⟨hwrite, fun k => ?_, hostRead_offset (x := .key n) trivial (.inl hidle)⟩
    rw [hwrite, State.masterKey, keyOfWords_getElem]
    exact congrArg (byteOf · k.val) (Vector.getElem_set_self ..)
  · obtain rfl | rfl := hi <;> cases h <;> rfl

section keyMaterial
variable (P : Params) (s : State) (r : RoundKeys) (k : Vector Word 8)

/-- No target reads the key context (R38, R32). -/
theorem readTarget_withKeys (x : Target) : State.readTarget P { s with rk := r, key := k } x = s.readTarget P x := by
  cases x <;> rfl

/-- A write carries the key context through, and only KEYn changes in it (R32). -/
theorem writeTarget_withKeys (d : Word) (x : Target) :
    ∃ k', State.writeTarget P d { s with rk := r, key := k } x = { s.writeTarget P d x with rk := r, key := k' } := by
  cases x with
  | key n => exact ⟨k.set n d, rfl⟩
  | _ => exact ⟨k, rfl⟩

theorem hostRead_withKeys (a : BusAddr) :
    State.hostRead P a { s with rk := r, key := k }
      = ((s.hostRead P a).1, { (s.hostRead P a).2 with rk := r, key := k }) := by
  have href : State.readRefused P { s with rk := r, key := k } a = s.readRefused P a := rfl
  cases hs : s.readRefused P a with
  | true => rw [hostRead_refused (href.trans hs), hostRead_refused hs]; rfl
  | false => rw [hostRead_accepted (href.trans hs), hostRead_accepted hs, readTarget_withKeys]

theorem hostWrite_withKeys (a : BusAddr) (d : Word) :
    ∃ k', State.hostWrite P a d { s with rk := r, key := k } = { s.hostWrite P a d with rk := r, key := k' } := by
  have href : State.writeRefused P { s with rk := r, key := k } a = s.writeRefused P a := rfl
  cases hs : s.writeRefused P a with
  | true => rw [hostWrite_refused d (href.trans hs), hostWrite_refused d hs]; exact ⟨k, rfl⟩
  | false =>
    rw [hostWrite_accepted d (href.trans hs), hostWrite_accepted d hs]
    exact writeTarget_withKeys P s r k d _

end keyMaterial

/-- Settles O52: a refusal looks at BUSY, and no target reads the key context. -/
theorem keyMaterialUnreadable : Obligations.KeyMaterialUnreadable := by
  intro s r k a d
  rw [hostRead_withKeys]
  exact ⟨rfl, rfl, hostWrite_withKeys Config.params s r k a d⟩

end Sys2Proof.Machine
end

-- Which state each command writes (spec/10_state.md R42), and when RK changes (R38).
section
/-! The result of each kind of command, said once; the frame of every command follows from it. -/

namespace Sys2Proof.Machine

/-- Where a command that completed left the state: the rejection of the word's operands, or its operation's result
(R300). -/
theorem exec_cases {i : Instr} {s t : State} (h : exec i s = .next t) :
    (∃ c, t = s.reject c) ∨ ∃ u, operation Config.params i s = .ok u ∧ t = u.succeed := by
  rw [exec_eq_complete] at h
  injection h with h
  cases hop : operation Config.params i s with
  | error c => exact .inl ⟨c, by rw [← h, hop, complete_error]⟩
  | ok u => exact .inr ⟨u, rfl, by rw [← h, hop, complete_ok]⟩

/-- A mode command that passes its prologue answers its report on a BUF that is changed only in the region (R221). -/
theorem modeCommand_ok_cases {σ : Type} {P : Params} {f : σ → Block → Block × σ} {c : σ} {report : σ → State → State}
    {s t : State} (h : modeCommand P f c report s = .ok t) :
    ∃ (d : σ) (m : Memory), t = report d { s with buf := m } ∧
      s.sameOutside P { s with buf := m } s.bufAddr.toNat s.len.toNat := by
  rcases modeCommand_cases P f c report s with ⟨e, -⟩ | ⟨e, -⟩ | ⟨hlen, -, -, e⟩ <;> rw [e] at h <;> cases h
  obtain ⟨-, -, -, -, hout⟩ := chainBlocks_spec (u := s.unlisted P) f (s.len.toNat / 24) s.bufAddr.toNat c s.buf
  exact ⟨_, _, rfl, fun o ho => hout o (by omega)⟩

/-- Everything the completion of a command can answer, by the kind of the command (R42, R303). -/
inductive ExecResult (P : Params) (s : State) : Instr → State → Prop
  | rejected {i : Instr} (c : RejectCode) : ExecResult P s i (s.reject c)
  | control {i : Instr} (hi : i ∈ [Instr.nop, .tblchk]) : ExecResult P s i s.succeed
  | key {i : Instr} (hi : i ∈ [Instr.keyexp, .keyclr]) (rk : RoundKeys) (keyed : Bool) :
      ExecResult P s i (s.setContext rk keyed).clearKey.succeed
  | block {i : Instr} (hi : ∃ cnt, i = .rfAdv cnt ∨ i = .rfRev cnt) (v : Block) :
      ExecResult P s i (s.memWrite P s.bufAddr.toNat v).succeed
  | ecb {i : Instr} (hi : i ∈ [Instr.ecbEnc, .ecbDec]) (m : Memory)
      (hm : s.sameOutside P { s with buf := m } s.bufAddr.toNat s.len.toNat) :
      ExecResult P s i (State.succeed { s with buf := m })
  | chained {i : Instr} (hi : i ∈ [Instr.cbcEnc, .cbcDec, .ofbXcrypt]) (c : Block) (m : Memory)
      (hm : s.sameOutside P { s with buf := m } s.bufAddr.toNat s.len.toNat) :
      ExecResult P s i (State.setChainOut c { s with buf := m }).succeed
  | counter (c : BitVec 64) (m : Memory)
      (hm : s.sameOutside P { s with buf := m } s.bufAddr.toNat s.len.toNat) :
      ExecResult P s .ctrXcrypt (State.setCtrOut c { s with buf := m }).succeed

theorem exec_result {i : Instr} {s t : State} (h : exec i s = .next t) : ExecResult Config.params s i t := by
  rcases exec_cases h with ⟨c, rfl⟩ | ⟨u, hu, rfl⟩
  · exact .rejected c
  cases i with
  | nop => cases hu; exact .control (by decide)
  | tblchk =>
    have hu' : tblchkCommand Config.params s = .ok u := hu
    rw [tblchkCommand, if_pos (tablesMatch_true _)] at hu'
    cases hu'
    exact .control (by decide)
  | keyexp | keyclr =>
    obtain rfl := Except.ok.inj hu
    exact .key (by decide) _ _
  | rfAdv cnt | rfRev cnt =>
    have hu' : blockCommand Config.params _ cnt s = .ok u := hu
    rcases blockCommand_cases Config.params _ cnt s with ⟨e, -⟩ | ⟨e, -⟩ | ⟨-, -, -, e⟩ <;> rw [e] at hu' <;> cases hu'
    exact .block ⟨cnt, by simp⟩ _
  | ecbEnc | ecbDec =>
    obtain ⟨-, m, rfl, hm⟩ := modeCommand_ok_cases (report := fun (_ : Unit) t => t) hu
    exact .ecb (by decide) m hm
  | cbcEnc | cbcDec | ofbXcrypt =>
    obtain ⟨c, m, rfl, hm⟩ := modeCommand_ok_cases (report := State.setChainOut) hu
    exact .chained (by decide) c m hm
  | ctrXcrypt =>
    obtain ⟨c, m, rfl, hm⟩ := modeCommand_ok_cases (report := State.setCtrOut) hu
    exact .counter c m hm

section frame
variable {i : Instr} {s t : State}

/-- The registers that no command writes (R42): the operand registers, ACCERR, IE and CMD among them. -/
theorem exec_frame (h : exec i s = .next t) :
    t = { s with
      buf := t.buf, rk := t.rk, keyed := t.keyed, key := t.key, chainOut := t.chainOut, ctrOutLo := t.ctrOutLo,
      ctrOutHi := t.ctrOutHi, busy := t.busy, done := t.done, err := t.err, errCode := t.errCode } := by
  cases exec_result h <;> rfl

theorem exec_leaves_buf (h : exec i s = .next t) (hi : i ∈ [Instr.nop, .tblchk, .keyexp, .keyclr]) :
    t.buf = s.buf := by
  cases exec_result h with
  | rejected | control | key => rfl
  | block hw => obtain ⟨cnt, rfl | rfl⟩ := hw <;> simp at hi
  | ecb hw | chained hw => fin_cases hi <;> simp at hw
  | counter => simp at hi

/-- RF.ADV and RF.REV write the block at BUF_ADDR at most (R140, R141). -/
theorem exec_block_outside (h : exec i s = .next t) (hi : ∃ cnt, i = .rfAdv cnt ∨ i = .rfRev cnt) :
    s.sameOutside Config.params t s.bufAddr.toNat 24 := by
  cases exec_result h with
  | rejected | control | key => exact fun _ _ => rfl
  | block _ v => exact fun o ho => s.byteAt_memWrite_outside Config.params _ o v ho
  | ecb hw | chained hw => obtain ⟨cnt, rfl | rfl⟩ := hi <;> simp at hw
  | counter => simp at hi

/-- The mode commands write the region at most (R221). -/
theorem exec_mode_outside (h : exec i s = .next t) (hi : i ∈ modeCommands) :
    s.sameOutside Config.params t s.bufAddr.toNat s.len.toNat := by
  cases exec_result h with
  | rejected | control | key => exact fun _ _ => rfl
  | block hw => obtain ⟨cnt, rfl | rfl⟩ := hw <;> simp [modeCommands] at hi
  | ecb _ m hm | chained _ c m hm | counter c m hm => exact hm

theorem exec_leaves_keys (h : exec i s = .next t) (hexp : i ≠ .keyexp) (hclr : i ≠ .keyclr) :
    t.rk = s.rk ∧ t.keyed = s.keyed ∧ t.key = s.key := by
  cases exec_result h with
  | key hw => simp [hexp, hclr] at hw
  | _ => exact ⟨rfl, rfl, rfl⟩

theorem exec_leaves_chainOut (h : exec i s = .next t) (hi : i ∉ [Instr.cbcEnc, .cbcDec, .ofbXcrypt]) :
    t.chainOut = s.chainOut := by
  cases exec_result h with
  | chained hw => exact absurd hw hi
  | _ => rfl

theorem exec_leaves_ctrOut (h : exec i s = .next t) (hi : i ≠ .ctrXcrypt) :
    t.ctrOutLo = s.ctrOutLo ∧ t.ctrOutHi = s.ctrOutHi := by
  cases exec_result h with
  | counter => exact absurd rfl hi
  | _ => exact ⟨rfl, rfl⟩

end frame

/-- Settles O37, one clause of R42 at a time. -/
theorem commandFrame : Obligations.CommandFrame := fun _ _ _ h =>
  ⟨exec_frame h, exec_leaves_buf h, exec_block_outside h, exec_mode_outside h, exec_leaves_keys h,
    exec_leaves_chainOut h, exec_leaves_ctrOut h⟩

/-- No access of the bus writes RK (R38). -/
theorem State.readTransaction_rk (P : Params) (a : BusAddr) (s : State) : (s.readTransaction P a).rk = s.rk := by
  unfold State.readTransaction State.hostRead
  split_ifs <;> rfl

theorem State.writeTransaction_rk (P : Params) (a : BusAddr) (d : Word) (s : State) :
    (s.writeTransaction P a d).rk = s.rk := by
  have htarget (x : Target) : (s.writeTarget P d x).rk = s.rk := by cases x <;> rfl
  unfold State.writeTransaction State.hostWrite
  split_ifs
  · rfl
  · rfl
  · exact htarget _

/-- A turn of the unit changes RK only by completing KEYEXP or KEYCLR (R38). -/
theorem unitTurn_rk_cases {s t : State} (h : unitTurn s = .next t) (hrk : t.rk ≠ s.rk) :
    s.enabled = true ∧ (decode s.cmd = .ok .keyexp ∨ decode s.cmd = .ok .keyclr) := by
  rcases unitTurn_cases h with ⟨-, rfl⟩ | ⟨hon, i, hi, hexec⟩ | ⟨-, -, rfl⟩
  · exact absurd rfl hrk
  · refine ⟨hon, by_contra fun hnot => hrk (exec_leaves_keys hexec ?_ ?_).1⟩
    · rintro rfl
      exact hnot (.inl hi)
    · rintro rfl
      exact hnot (.inr hi)
  · exact absurd rfl hrk

/-- The falling edge zeroes RK, and a pin held low changes nothing (R350). -/
theorem State.pinLow_rk_cases {s : State} (h : s.pinLow.rk ≠ s.rk) :
    s.rstLow = false ∧ s.pinLow.rk = Vector.replicate 192 0 := by
  unfold State.pinLow at h ⊢
  split_ifs at h ⊢ with hlow
  · exact absurd rfl h
  · exact ⟨by simpa using hlow, rfl⟩

/-- Settles O60, by the agent whose turn it is. -/
theorem roundKeysChangeOnlyByKeyCommands : Obligations.RoundKeysChangeOnlyByKeyCommands := by
  intro s t h hrk
  rcases step_cases h with ⟨hnil, hunit⟩ | ⟨e, rest, hev, hturn⟩
  · obtain ⟨hon, hkey⟩ := unitTurn_rk_cases hunit hrk
    exact .inl ⟨hon, hkey, .inl hnil⟩
  · rcases hturn with ⟨a, rfl, rfl⟩ | ⟨a, d, rfl, rfl⟩ | ⟨rfl, hunit⟩ | ⟨rfl, rfl⟩ | ⟨rfl, rfl⟩
    · exact absurd (State.readTransaction_rk ..) hrk
    · exact absurd (State.writeTransaction_rk ..) hrk
    · obtain ⟨hon, hkey⟩ := unitTurn_rk_cases hunit hrk
      exact .inl ⟨hon, hkey, .inr (by rw [hev]; rfl)⟩
    · obtain ⟨hhigh, hzero⟩ := State.pinLow_rk_cases hrk
      exact .inr ⟨by rw [hev]; rfl, hhigh, hzero⟩
    · exact absurd rfl hrk

end Sys2Proof.Machine
end

-- CTR.XCRYPT (spec/43_modes.md R246, R250).
section
/-! The result of a mode command whose prologue passes, and the chaining values of CTR, which are the block counters. -/

namespace Sys2Proof.Machine

/-- Byte k of word n of the nonce (R34). -/
theorem nonceOfWords_getElem (w : Vector Word 3) (n : Fin 3) (k : Fin 4) :
    (nonceOfWords w)[4 * n.val + k.val] = byteOf w[n] k.val := by
  have hword : (4 * n.val + k.val) / 4 = n.val := by omega
  have hbyte : (4 * n.val + k.val) % 4 = k.val := by omega
  simp [nonceOfWords, hword, hbyte]

/-- The result of a mode command whose prologue passes: the chaining values that its block function runs through, and
BUF changed in the region, block by block (R221). -/
theorem modeCommand_result {σ : Type} {P : Params} (f : σ → Block → Block × σ) (c : σ) (report : σ → State → State)
    {s : State} (h : s.regionOk P) :
    ∃ (cs : Nat → σ) (m : Memory),
      modeCommand P f c report s = .ok (report (cs (s.len.toNat / 24)) { s with buf := m }) ∧ cs 0 = c ∧
      (∀ b < s.len.toNat / 24, State.blockAt P { s with buf := m } b = (f (cs b) (s.blockAt P b)).1 ∧
        cs (b + 1) = (f (cs b) (s.blockAt P b)).2) ∧
      s.sameOutside P { s with buf := m } s.bufAddr.toNat s.len.toNat := by
  obtain ⟨hlen, haddr, hfit⟩ := h
  obtain ⟨cs, hfirst, hlast, hblocks, hout⟩ :=
    chainBlocks_spec (u := s.unlisted P) f (s.len.toNat / 24) s.bufAddr.toNat c s.buf
  refine ⟨cs, (chainBlocks (s.unlisted P) f (s.len.toNat / 24) s.bufAddr.toNat c s.buf).1, ?_, hfirst, ?_, ?_⟩
  · rw [modeCommand_ok f c report hlen haddr hfit, hlast]
  · intro b hb
    obtain ⟨hblock, hnext⟩ := hblocks b hb
    exact ⟨hblock, hnext⟩
  · exact fun o ho => hout o (by omega)

/-- CTR's counter counts the blocks, mod 2^64 (R246). -/
theorem ctrModeBlock_counters {P : Params} {rk : RoundKeys} {N : Vector Byte 12} {c : BitVec 64} {cs : Nat → BitVec 64}
    {x : Nat → Block} {n : Nat} (hfirst : cs 0 = c) (hnext : ∀ b < n, cs (b + 1) = (ctrModeBlock P rk N (cs b) (x b)).2) :
    ∀ b ≤ n, cs b = c + BitVec.ofNat 64 b := by
  intro b
  induction b with
  | zero => simp [hfirst]
  | succ b ih =>
    intro hb
    rw [hnext b hb]
    show cs b + 1 = _
    rw [ih (by omega), BitVec.add_assoc]
    simp [BitVec.ofNat_add]

/-- A 64-bit value from its two halves (R31, R35). -/
theorem toNat_halves (c : BitVec 64) :
    (c.extractLsb' 32 32).toNat * 2 ^ 32 + (c.extractLsb' 0 32).toNat = c.toNat := by
  simp only [BitVec.extractLsb'_toNat, Nat.shiftRight_eq_div_pow]
  omega

theorem State.counter_toNat (s : State) : s.counter.toNat = s.ctrHi.toNat * 2 ^ 32 + s.ctrLo.toNat := by
  rw [State.counter, BitVec.toNat_append, ← Nat.shiftLeft_add_eq_or_of_lt s.ctrLo.isLt, Nat.shiftLeft_eq]

/-- Settles O30, from the block loop's chaining values, which are the counters of the blocks. -/
theorem ctrXcryptResult : Obligations.CtrXcryptResult := by
  intro s h
  refine ⟨fun n k => ?_, s.counter_toNat, ?_⟩
  · rw [State.nonceBytes, nonceOfWords_getElem, byteOf_toNat]
  · obtain ⟨cs, m, hop, hfirst, hblocks, hout⟩ := modeCommand_result
      (ctrModeBlock Config.params s.rk s.nonceBytes) s.counter State.setCtrOut h
    have hcs := ctrModeBlock_counters hfirst fun b hb => (hblocks b hb).2
    have hexec := exec_eq_complete .ctrXcrypt s
    rw [show operation Config.params .ctrXcrypt s = _ from hop, complete_ok] at hexec
    refine ⟨_, hexec, rfl, fun b hb => ?_, ?_, hout⟩
    · refine (hblocks b hb).1.trans ?_
      rw [hcs b (by omega)]
      rfl
    · refine (toNat_halves (cs (s.len.toNat / 24))).trans ?_
      rw [hcs _ le_rfl, BitVec.toNat_add, BitVec.toNat_ofNat, Nat.add_mod_mod]

end Sys2Proof.Machine
end

-- What every step keeps (spec/20_memory.md R60, spec/10_state.md R23, R24, R39, spec/70_reset_and_hazards.md R350).
section
/-! Each way to change the state keeps the invariant: first the updates that a turn is made of, then the operation of
every command, then the turns. -/

namespace Sys2Proof.Machine

section updates
variable {P : Params} {s t : State}

/-- Out of reset the invariant is about BUF, the error report and the key context alone. -/
theorem State.inv_of_pinHigh (hhigh : t.rstLow = false) (hbuf : t.bufOk P) (hreport : t.reportOk)
    (hcode : t.errCode ≠ 4) (hpending : t.pendingOk) (hplaceholder : t.placeholderOk) : t.Inv P :=
  ⟨hbuf, hreport, hcode, hpending, hplaceholder, fun hlow => absurd (hhigh.symm.trans hlow) nofun⟩

/-- The waiting turns, the read-data port and the count of reads in reset are not of the unit (R350). -/
theorem State.Inv.withSurroundings (h : s.Inv P) (es : List Event) (r : Option Word) (n : Nat) :
    State.Inv P { s with events := es, rdata := r, readDraws := n } := by
  refine ⟨h.bufOk, h.reportOk, h.noTableError, h.pendingOk, h.placeholderOk, fun hlow => ?_⟩
  have hreset := h.heldInReset hlow
  unfold State.atResetValues at hreset ⊢
  rw [hreset]

/-- MemWrite inside BUF keeps its canonical form and its bound (R60, R63). -/
theorem State.bufOk.memWrite {a n : Nat} (h : s.bufOk P) (v : Vector Byte n) (ha : a + n ≤ P.bufBytes) :
    (s.memWrite P a v).bufOk P := by
  obtain ⟨hwf, hlt⟩ := h
  exact ⟨Memory.wf_writeN a v hwf, Memory.lt_of_mem_writeN hlt ha⟩

/-- The key context and KEY are no part of BUF (R38). -/
theorem State.bufOk.keyContext (h : s.bufOk P) (rk : RoundKeys) (keyed : Bool) :
    (s.setContext rk keyed).clearKey.bufOk P := h

theorem RejectCode.code_bounds (c : RejectCode) : 1 ≤ c.code.toNat ∧ c.code.toNat ≤ 4 := by
  cases c <;> decide

theorem RejectCode.code_ne_four {c : RejectCode} (h : c ≠ .table) : c.code ≠ 4 := by
  cases c with
  | table => exact absurd rfl h
  | _ => decide

theorem State.Inv.reject {c : RejectCode} (h : s.Inv P) (hhigh : s.rstLow = false) (hc : c ≠ .table) :
    (s.reject c).Inv P :=
  State.inv_of_pinHigh hhigh h.bufOk ⟨nofun, fun _ => c.code_bounds⟩ (RejectCode.code_ne_four hc) nofun
    h.placeholderOk

theorem State.Inv.succeed (h : s.Inv P) (hhigh : s.rstLow = false) : s.succeed.Inv P :=
  State.inv_of_pinHigh hhigh h.bufOk h.reportOk h.noTableError nofun h.placeholderOk

theorem State.Inv.refuse (h : s.Inv P) (hhigh : s.rstLow = false) : s.refuse.Inv P :=
  State.inv_of_pinHigh hhigh h.bufOk h.reportOk h.noTableError h.pendingOk h.placeholderOk

/-- Acceptance clears the report of the command before (R23). -/
theorem State.Inv.accept (h : s.Inv P) (hhigh : s.rstLow = false) (w : Word) : (s.accept w).Inv P :=
  State.inv_of_pinHigh hhigh h.bufOk ⟨fun _ => rfl, nofun⟩ (show (0 : BitVec 4) ≠ 4 by decide)
    (fun _ => ⟨rfl, rfl⟩) h.placeholderOk

/-- A write to STATUS clears ERRCODE together with ERR, or leaves both (R24). -/
theorem State.writeStatus_report (s : State) (d : Word) :
    ((s.writeStatus d).err = false ∧ (s.writeStatus d).errCode = 0) ∨
      ((s.writeStatus d).err = s.err ∧ (s.writeStatus d).errCode = s.errCode) := by
  rw [State.writeStatus_eq]
  by_cases hclear : d.getLsbD 2 = true
  · exact .inl ⟨if_pos hclear, if_pos hclear⟩
  · exact .inr ⟨if_neg hclear, if_neg hclear⟩

theorem State.Inv.writeStatus (h : s.Inv P) (hhigh : s.rstLow = false) (d : Word) : (s.writeStatus d).Inv P := by
  have hpending : (s.writeStatus d).pendingOk := fun hbusy => by
    obtain ⟨hdone, herr⟩ := h.pendingOk hbusy
    simp [hdone, herr]
  rcases s.writeStatus_report d with ⟨herr, hcode⟩ | ⟨herr, hcode⟩
  · refine State.inv_of_pinHigh hhigh h.bufOk ⟨fun _ => hcode, fun hset => ?_⟩ ?_ hpending h.placeholderOk
    · exact absurd (herr.symm.trans hset) nofun
    · rw [hcode]
      decide
  · refine State.inv_of_pinHigh hhigh h.bufOk ?_ ?_ hpending h.placeholderOk
    · unfold State.reportOk
      rw [herr, hcode]
      exact h.reportOk
    · rw [hcode]
      exact h.noTableError

/-- An accepted write to any target of the map keeps the invariant. -/
theorem State.Inv.writeTarget (h : s.Inv P) (hhigh : s.rstLow = false) (d : Word) {x : Target}
    (hx : ∀ o, x = .buf o → o + 4 ≤ P.bufBytes) : (s.writeTarget P d x).Inv P := by
  cases x with
  | cmd => exact h.accept hhigh d
  | status => exact h.writeStatus hhigh d
  | buf o =>
    exact State.inv_of_pinHigh hhigh (h.bufOk.memWrite (wordBytes d) (hx o rfl)) h.reportOk h.noTableError
      h.pendingOk h.placeholderOk
  | _ => exact State.inv_of_pinHigh hhigh h.bufOk h.reportOk h.noTableError h.pendingOk h.placeholderOk

theorem State.Inv.hostRead (h : s.Inv P) (hhigh : s.rstLow = false) (a : BusAddr) : (s.hostRead P a).2.Inv P := by
  cases hs : s.readRefused P a with
  | true => rw [hostRead_refused hs]; exact h.refuse hhigh
  | false => rw [hostRead_accepted hs]; exact h

theorem State.Inv.hostWrite (h : s.Inv P) (hhigh : s.rstLow = false) (a : BusAddr) (d : Word) :
    (s.hostWrite P a d).Inv P := by
  cases hs : s.writeRefused P a with
  | true => rw [hostWrite_refused d hs]; exact h.refuse hhigh
  | false => rw [hostWrite_accepted d hs]; exact h.writeTarget hhigh d fun _ hbuf => (targetOf_eq_buf hbuf).2

end updates

section operations
variable {P : Params} {i : Instr} {s t : State}

theorem blockCommand_bufOk {f : Block → Block} {cnt : BitVec 4} (hs : s.bufOk P)
    (h : blockCommand P f cnt s = .ok t) : t.bufOk P := by
  rcases blockCommand_cases P f cnt s with ⟨e, -⟩ | ⟨e, -⟩ | ⟨-, -, hfit, e⟩ <;> rw [e] at h <;> cases h
  exact hs.memWrite _ hfit

/-- The block loop of a mode command stays in the region, which lies in BUF (R220, R221). -/
theorem modeCommand_bufOk {σ : Type} {f : σ → Block → Block × σ} {c : σ} {report : σ → State → State}
    (hs : s.bufOk P) (hreport : ∀ d u, u.bufOk P → (report d u).bufOk P)
    (h : modeCommand P f c report s = .ok t) : t.bufOk P := by
  rcases modeCommand_cases P f c report s with ⟨e, -⟩ | ⟨e, -⟩ | ⟨-, -, hfit, e⟩ <;> rw [e] at h <;> cases h
  obtain ⟨hwf, hlt⟩ := hs
  exact hreport _ _ ⟨chainBlocks_wf f _ _ c _ hwf, chainBlocks_lt f _ _ _ c _ hlt (by omega)⟩

theorem operation_bufOk (hs : s.bufOk P) (h : operation P i s = .ok t) : t.bufOk P := by
  cases i with
  | nop => cases h; exact hs
  | tblchk =>
    have h' : tblchkCommand P s = .ok t := h
    rw [tblchkCommand, if_pos (tablesMatch_true P)] at h'
    cases h'; exact hs
  | keyexp | keyclr =>
    obtain rfl := Except.ok.inj h
    exact hs.keyContext _ _
  | rfAdv | rfRev => exact blockCommand_bufOk hs h
  | ecbEnc | ecbDec => exact modeCommand_bufOk (report := fun (_ : Unit) u => u) hs (fun _ _ hu => hu) h
  | cbcEnc | cbcDec | ofbXcrypt => exact modeCommand_bufOk (report := State.setChainOut) hs (fun _ _ hu => hu) h
  | ctrXcrypt => exact modeCommand_bufOk (report := State.setCtrOut) hs (fun _ _ hu => hu) h

theorem blockCommand_error_ne_table {f : Block → Block} {cnt : BitVec 4} {c : RejectCode}
    (h : blockCommand P f cnt s = .error c) : c ≠ .table := by
  rcases blockCommand_cases P f cnt s with ⟨e, -⟩ | ⟨e, -⟩ | ⟨-, -, -, e⟩ <;> rw [e] at h <;> cases h <;> nofun

theorem modeCommand_error_ne_table {σ : Type} {f : σ → Block → Block × σ} {d : σ} {report : σ → State → State}
    {c : RejectCode} (h : modeCommand P f d report s = .error c) : c ≠ .table := by
  rcases modeCommand_cases P f d report s with ⟨e, -⟩ | ⟨e, -⟩ | ⟨-, -, -, e⟩ <;> rw [e] at h <;> cases h <;> nofun

/-- On a conforming unit no command reports TABLE (93_implementation_defined.md I7). -/
theorem operation_error_ne_table {c : RejectCode} (h : operation P i s = .error c) : c ≠ .table := by
  cases i with
  | nop | keyexp | keyclr => cases h
  | tblchk =>
    have h' : tblchkCommand P s = .error c := h
    rw [tblchkCommand, if_pos (tablesMatch_true P)] at h'
    cases h'
  | rfAdv | rfRev => exact blockCommand_error_ne_table h
  | ecbEnc | ecbDec => exact modeCommand_error_ne_table (report := fun (_ : Unit) u => u) h
  | cbcEnc | cbcDec | ofbXcrypt => exact modeCommand_error_ne_table (report := State.setChainOut) h
  | ctrXcrypt => exact modeCommand_error_ne_table (report := State.setCtrOut) h

/-- KEYEXP leaves KEYED set, KEYCLR leaves the placeholder, and no other command writes the key context (R39). -/
theorem operation_placeholderOk (hs : s.placeholderOk) (h : operation Config.params i s = .ok t) :
    t.placeholderOk := by
  by_cases hexp : i = .keyexp
  · subst hexp
    cases h
    nofun
  by_cases hclr : i = .keyclr
  · subst hclr
    cases h
    exact fun _ => rfl
  have hexec : exec i s = .next t.succeed := by rw [exec_eq_complete, h, complete_ok]
  obtain ⟨hrk, hkeyed, -⟩ := exec_leaves_keys hexec hexp hclr
  exact fun hunkeyed => hrk.trans (hs (hkeyed.symm.trans hunkeyed))

/-- An operation changes, of what the invariant names, BUF and the key context only. -/
theorem operation_keeps_inv (hs : s.Inv Config.params) (hhigh : s.rstLow = false)
    (h : operation Config.params i s = .ok t) : t.Inv Config.params ∧ t.rstLow = false := by
  have hbuf := operation_bufOk hs.bufOk h
  have hplaceholder := operation_placeholderOk hs.placeholderOk h
  have hframe := operation_operated h
  unfold State.operated at hframe
  rw [hframe] at hbuf hplaceholder ⊢
  exact ⟨State.inv_of_pinHigh hhigh hbuf hs.reportOk hs.noTableError hs.pendingOk hplaceholder, hhigh⟩

theorem exec_keeps_inv (hs : s.Inv Config.params) (hhigh : s.rstLow = false) (h : exec i s = .next t) :
    t.Inv Config.params := by
  rw [exec_eq_complete] at h
  injection h with h
  subst h
  cases hop : operation Config.params i s with
  | error c => exact hs.reject hhigh (operation_error_ne_table hop)
  | ok u =>
    obtain ⟨hu, hpin⟩ := operation_keeps_inv hs hhigh hop
    exact hu.succeed hpin

end operations

section turns
variable {P : Params} {s t : State}

theorem State.Inv.readTransaction (h : s.Inv P) (a : BusAddr) : (s.readTransaction P a).Inv P := by
  unfold State.readTransaction
  split_ifs with hlow
  · exact h.withSurroundings s.events _ _
  · exact (h.hostRead (by simpa using hlow) a).withSurroundings _ _ _

theorem State.Inv.writeTransaction (h : s.Inv P) (a : BusAddr) (d : Word) : (s.writeTransaction P a d).Inv P := by
  unfold State.writeTransaction
  split_ifs with hlow
  · exact h.withSurroundings s.events none s.readDraws
  · exact (h.hostWrite (by simpa using hlow) a d).withSurroundings _ _ _

/-- A turn of the unit, which is enabled out of reset only (R350), keeps the invariant. -/
theorem unitTurn_keeps_inv (hs : s.Inv Config.params) (h : unitTurn s = .next t) : t.Inv Config.params := by
  have pin_high (hon : s.enabled = true) : s.rstLow = false := by
    simp only [State.enabled, Bool.and_eq_true, Bool.not_eq_true'] at hon
    exact hon.2
  rcases unitTurn_cases h with ⟨-, rfl⟩ | ⟨hon, i, -, hexec⟩ | ⟨hon, -, rfl⟩
  · exact hs
  · exact exec_keeps_inv hs (pin_high hon) hexec
  · exact hs.reject (pin_high hon) nofun

/-- The falling edge leaves the reset state, whatever was drawn for BUF (R350). -/
theorem State.Inv.pinLow (h : s.Inv Config.params) : s.pinLow.Inv Config.params := by
  unfold State.pinLow
  split_ifs
  · exact h
  · have hreset := resetHasInvariant s.events (s.bufEpoch + 1)
    exact ⟨hreset.bufOk, hreset.reportOk, hreset.noTableError, hreset.pendingOk, hreset.placeholderOk, fun _ => rfl⟩

theorem State.Inv.releaseReset (h : s.Inv P) : s.releaseReset.Inv P :=
  State.inv_of_pinHigh rfl h.bufOk h.reportOk h.noTableError h.pendingOk h.placeholderOk

end turns

/-- Settles O57, by the agent whose turn it is. -/
theorem stepKeepsInvariant : Obligations.StepKeepsInvariant := by
  intro s t hs h
  rcases step_cases h with ⟨-, hunit⟩ | ⟨e, rest, -, hturn⟩
  · exact unitTurn_keeps_inv hs hunit
  · have hrest : State.Inv Config.params { s with events := rest } := hs.withSurroundings rest s.rdata s.readDraws
    rcases hturn with ⟨a, -, rfl⟩ | ⟨a, d, -, rfl⟩ | ⟨-, hunit⟩ | ⟨-, rfl⟩ | ⟨-, rfl⟩
    · exact hrest.readTransaction a
    · exact hrest.writeTransaction a d
    · exact unitTurn_keeps_inv hrest hunit
    · exact hrest.pinLow
    · exact hrest.releaseReset

/-- Every turn, of whichever agent, is answered by a next state. -/
theorem turn_goesOn (P : Params) (e : Event) (s : State) : ∃ t, turn P e s = .next t := by
  cases e with
  | unit =>
    show ∃ t, unitTurn s = .next t
    unfold unitTurn
    split_ifs
    · obtain ⟨t, ht, -⟩ := completeCommand_completes s
      exact ⟨t, ht⟩
    · exact ⟨s, rfl⟩
  | read | write | rstAssert | rstRelease => exact ⟨_, rfl⟩

/-- Settles O56: the step is a turn, the unit's where none waits. -/
theorem stepNeverStops : Obligations.StepNeverStops := by
  intro s
  unfold State.goesOn
  cases hev : s.events with
  | nil => rw [step_of_events_nil hev]; exact turn_goesOn Config.params .unit s
  | cons e rest => rw [step_of_events_cons hev]; exact turn_goesOn _ e _

end Sys2Proof.Machine
end

-- The BUF window and the refused accesses (spec/20_memory.md R65, R66, R67, R69).
section
/-! A word of BUF as a number and as a word of a block; and which accesses are refused, by the address. -/

namespace Sys2Proof.Machine

/-- The word of four bytes, as a number (R120). -/
theorem load32le_toNat (b0 b1 b2 b3 : Byte) : (load32le b0 b1 b2 b3).toNat =
    b0.toNat + b1.toNat * 2 ^ 8 + b2.toNat * 2 ^ 16 + b3.toNat * 2 ^ 24 := by
  have happend : load32le b0 b1 b2 b3 = b3 ++ (b2 ++ (b1 ++ b0)) := by
    ext i hi
    simp only [load32le, BitVec.getElem_or, BitVec.getElem_setWidth, BitVec.getElem_shiftLeft]
    grind
  have hcat {m n : Nat} (x : BitVec m) (y : BitVec n) : (x ++ y).toNat = x.toNat * 2 ^ n + y.toNat := by
    rw [BitVec.toNat_append, ← Nat.shiftLeft_add_eq_or_of_lt y.isLt, Nat.shiftLeft_eq]
  rw [happend, hcat, hcat, hcat]
  omega

/-- Word i of the block that MemRead gives at `a` is the word of the window at `a + 4i` (R66, R121). -/
theorem wordsOfBlock_memRead (P : Params) (s : State) (a : Nat) (i : Fin 6) :
    (wordsOfBlock (s.memRead P a 24))[i] = s.readTarget P (.buf (a + 4 * i.val)) := by
  simp [wordsOfBlock, State.readTarget, memRead_getElem, Nat.add_assoc]

theorem Target.offset_buf (o : Nat) : (Target.buf o).offset = 0x1000 + o := rfl

/-- Settles O47: the access at a word's address is the read or the write of its four bytes. -/
theorem bufWindowLittleEndian : Obligations.BufWindowLittleEndian := by
  intro s d o hidle ho hfit
  have hx : (Target.buf o).mapped Config.params := ⟨ho, hfit⟩
  have hwrite : s.hostWrite Config.params (BitVec.ofNat 13 (0x1000 + o)) d
      = s.memWrite Config.params o (wordBytes d) := by
    rw [← Target.offset_buf]
    exact hostWrite_offset d hx (.inl hidle)
  have hread : s.hostRead Config.params (BitVec.ofNat 13 (0x1000 + o))
      = (s.readTarget Config.params (.buf o), s) := by
    rw [← Target.offset_buf]
    exact hostRead_offset hx (.inl hidle)
  refine ⟨⟨_, hwrite, rfl, fun k => ?_, fun o' ho' => ?_⟩, ⟨_, hread, ?_⟩,
    fun a n k => memRead_getElem Config.params s a n k k.isLt, fun a i hoff _ => ?_⟩
  · rw [s.byteAt_memWrite_wordBytes _ d o k.val k.isLt, byteOf_toNat]
  · exact s.byteAt_memWrite_outside _ o o' _ ho'
  · rw [State.readTarget, load32le_toNat]
  · rw [hwrite, wordsOfBlock_memRead, ← hoff]
    exact readTarget_writeTarget_same (x := .buf o) d trivial

/-- Settles O48: a misaligned address is refused before the map is looked at. -/
theorem misalignedRefused : Obligations.MisalignedRefused := fun s a d hmis =>
  ⟨hostRead_refused ((readRefused_iff _ s a).mpr (.inl hmis)),
    hostWrite_refused d ((writeRefused_iff _ s a).mpr (.inl hmis))⟩

/-- Settles O51: a refusal does not look at ACCERR, and an accepted read leaves the state. -/
theorem readSideEffects : Obligations.ReadSideEffects := by
  intro s a
  obtain ⟨-, hbusy, -⟩ := s.hostRead_frame Config.params a
  refine ⟨fun hread => ?_, hostRead_refused, hostRead_fst_congr hbusy fun hread => ?_⟩ <;> rw [hostRead_accepted hread]

/-- The addresses that may be read while busy (R67). -/
theorem readableBusy_offset {o : Nat} :
    (∃ x : Target, x.readableBusy = true ∧ x.offset = o) ↔ o ∈ [0x000, 0x004, 0x008, 0x00C, 0x088] := by
  constructor
  · rintro ⟨x, hx, rfl⟩
    cases x with
    | cmd | status | ctrl | id | param => decide
    | _ => exact absurd hx nofun
  · intro h
    fin_cases h
    exacts [⟨.cmd, rfl, rfl⟩, ⟨.status, rfl, rfl⟩, ⟨.ctrl, rfl, rfl⟩, ⟨.id, rfl, rfl⟩, ⟨.param, rfl, rfl⟩]

/-- Only these addresses may be written while busy (R67). -/
theorem writableBusy_offset {o : Nat} (h : ∃ x : Target, x.writableBusy = true ∧ x.offset = o) :
    o ∈ [0x004, 0x008, 0x00C, 0x088] := by
  obtain ⟨x, hx, rfl⟩ := h
  cases x with
  | status | ctrl | id | param => decide
  | _ => exact absurd hx nofun

theorem Target.mapped_of_readableBusy {P : Params} {x : Target} (h : x.readableBusy = true) : x.mapped P := by
  cases x with
  | cmd | status | ctrl | id | param => trivial
  | _ => exact absurd h nofun

/-- Where no target of a kind has its address, the map answers a target of another kind or the reserved one. -/
theorem targetOf_other_kind {P : Params} {o : Nat} {kind : Target → Bool} (h4 : o % 4 = 0)
    (h : ¬∃ x, kind x = true ∧ x.offset = o) : kind (targetOf P o) = false ∨ targetOf P o = .reserved := by
  rcases targetOf_standsAt (P := P) h4 with hres | ⟨-, hoff⟩
  · exact .inr hres
  · exact .inl (Bool.eq_false_iff.mpr fun hkind => h ⟨_, hkind, hoff⟩)

/-- Settles O50: the allowed addresses are those of the allowed targets, and elsewhere the access is refused. -/
theorem busyAccessRule : Obligations.BusyAccessRule := by
  intro s a d hbusy h4
  have at_addr {o : Nat} (h : a.toNat = o) : a = BitVec.ofNat 13 o := by
    rw [← h, BitVec.ofNat_toNat, BitVec.setWidth_eq]
  refine ⟨fun hread => ?_, fun hread => ?_, fun ha => ?_, fun ha => ?_, fun ha => ?_, fun hwrite => ?_⟩
  · obtain ⟨x, hx, hoff⟩ := readableBusy_offset.mpr hread
    rw [at_addr hoff.symm, hostRead_offset (Target.mapped_of_readableBusy hx) (.inr hx)]
  · have hother := targetOf_other_kind (P := Config.params) h4 (readableBusy_offset.not.mpr hread)
    exact hostRead_refused ((readRefused_iff _ s a).mpr (.inr (hother.imp_left fun hkind => ⟨hbusy, hkind⟩)))
  · rw [at_addr ha]
    exact hostWrite_offset (x := .status) d trivial (.inr rfl)
  · rw [at_addr ha]
    exact hostWrite_offset (x := .ctrl) d trivial (.inr rfl)
  · rcases ha with ha | ha <;> rw [at_addr ha]
    · exact hostWrite_offset (x := .id) d trivial (.inr rfl)
    · exact hostWrite_offset (x := .param) d trivial (.inr rfl)
  · have hother := targetOf_other_kind (P := Config.params) h4 fun hx => hwrite (writableBusy_offset hx)
    exact hostWrite_refused d ((writeRefused_iff _ s a).mpr (.inr (hother.imp_left fun hkind => ⟨hbusy, hkind⟩)))

end Sys2Proof.Machine
end

-- Command words: decoder, encoder and legality (spec/30_encoding.md R90 to R98).
section
/-! The three fields determine a word, and a word decodes to a command exactly when its fields are the command's. So
decoding and encoding are inverse, and legality is a property of the fields as numbers. -/

namespace Sys2Proof.Machine

/-! ### The fields of a word -/

theorem opcField_toNat (w : Word) : (opcField w).toNat = opcNat w := by
  simp [opcField, opcNat]

theorem cntField_toNat (w : Word) : (cntField w).toNat = cntNat w := by
  simp [cntField, cntNat, Nat.shiftRight_eq_div_pow]

theorem rsvField_toNat (w : Word) : (rsvField w).toNat = rsvNat w := by
  have := w.isLt
  simp only [rsvField, rsvNat, BitVec.extractLsb'_toNat, Nat.shiftRight_eq_div_pow]
  omega

/-- The reserved bits are clear, as a field and as a number. -/
theorem rsvField_eq_zero_iff (w : Word) : rsvField w = 0 ↔ rsvNat w = 0 := by
  rw [← rsvField_toNat, ← BitVec.toNat_inj]
  rfl

/-- The fields are all of a word: RSV, CNT and OPC, one after the other (R90). -/
theorem word_eq_append_fields (w : Word) : w = rsvField w ++ (cntField w ++ opcField w) := by
  ext k hk
  simp only [rsvField, cntField, opcField]
  grind

/-- The fields read back from a word put together from them. -/
theorem fields_append (rsv : BitVec 20) (cnt : BitVec 4) (opc : BitVec 8) :
    rsvField (rsv ++ (cnt ++ opc)) = rsv ∧ opcField (rsv ++ (cnt ++ opc)) = opc ∧
      cntField (rsv ++ (cnt ++ opc)) = cnt := by
  refine ⟨?_, ?_, ?_⟩ <;> ext k hk <;> simp only [rsvField, cntField, opcField] <;> grind

/-- An encoding is OPC, above it the count, and above that RSV, which is 0 (R98). -/
theorem encode_eq_append (i : Instr) : encode i = (0 : BitVec 20) ++ (i.cnt ++ i.opc) := by
  ext k hk
  simp only [encode]
  grind

/-! ### Decoding and encoding -/

/-- A word whose fields are a command's decodes to it: no row of the opcode table hides another (R93). -/
theorem decode_of_fields {w : Word} {i : Instr} (hrsv : rsvField w = 0) (hopc : opcField w = i.opc)
    (hcnt : cntField w = i.cnt) : decode w = .ok i := by
  cases i <;> simp [decode, decodePlain, hrsv, hopc, hcnt, Instr.opc, Instr.cnt]

theorem decode_eq_ok_iff {w : Word} {i : Instr} :
    decode w = .ok i ↔ rsvField w = 0 ∧ opcField w = i.opc ∧ cntField w = i.cnt :=
  ⟨decode_fields, fun ⟨hrsv, hopc, hcnt⟩ => decode_of_fields hrsv hopc hcnt⟩

/-- Decoding undoes encoding, for legal and other counts alike. -/
theorem decode_encode (i : Instr) : decode (encode i) = .ok i := by
  rw [decode_eq_ok_iff, encode_eq_append]
  exact fields_append 0 i.cnt i.opc

/-- No bit of a decoded word is dropped: RSV is 0, and the command holds the other two fields. -/
theorem encode_of_decode {w : Word} {i : Instr} (h : decode w = .ok i) : encode i = w := by
  obtain ⟨hrsv, hopc, hcnt⟩ := decode_fields h
  rw [encode_eq_append, ← hrsv, ← hopc, ← hcnt, ← word_eq_append_fields]

/-- Settles O2: a word and the command it stands for have the same fields, and the fields are the whole word. -/
theorem decodeEncodeAgree : Obligations.DecodeEncodeAgree :=
  ⟨fun i _ => decode_encode i, fun _ _ => encode_of_decode⟩

/-- Settles O1: each word is the encoding of its command. -/
theorem commandWordsDecode : Obligations.CommandWordsDecode :=
  ⟨decode_encode .nop, decode_encode (.rfAdv 3), decode_encode (.rfRev 8), decode_encode .keyexp,
    decode_encode .cbcDec, decode_encode .ctrXcrypt⟩

/-! ### Legality -/

/-- The part of R94 that is about OPC and CNT, as numbers. -/
def legalFields (opc cnt : Nat) : Prop :=
  (opc ∈ [0x01, 0x02] ∧ 1 ≤ cnt ∧ cnt ≤ 8) ∨
    (opc ∈ [0x00, 0x03, 0x10, 0x11, 0x20, 0x21, 0x22, 0x23, 0x24, 0x25] ∧ cnt = 0)

/-- A command is well-formed exactly when its own fields are legal (R92, R94). -/
theorem wellFormed_iff_legalFields (i : Instr) :
    i.wellFormed = true ↔ legalFields i.opc.toNat i.cnt.toNat := by
  cases i with
  | rfAdv cnt | rfRev cnt => simp [legalFields, Instr.wellFormed, Instr.opc, Instr.cnt, cntOk_iff]
  | _ => simp [legalFields, Instr.wellFormed, Instr.opc, Instr.cnt]

/-- The commands that take no count (R92). -/
def countlessCommands : List Instr := [.nop, .tblchk, .keyexp, .keyclr] ++ modeCommands

theorem countlessCommands_opc : countlessCommands.map (fun i => i.opc.toNat) =
    [0x00, 0x03, 0x10, 0x11, 0x20, 0x21, 0x22, 0x23, 0x24, 0x25] := rfl

theorem cnt_of_mem_countlessCommands : ∀ i ∈ countlessCommands, i.cnt = 0 := by decide

/-- Every assigned opcode with its legal count is a command's (R93). -/
theorem exists_instr_of_legalFields {opc : BitVec 8} {cnt : BitVec 4} (h : legalFields opc.toNat cnt.toNat) :
    ∃ i : Instr, i.opc = opc ∧ i.cnt = cnt := by
  rcases h with ⟨hopc, -⟩ | ⟨hopc, hcnt⟩
  · rcases List.mem_pair.mp hopc with hopc | hopc
    · exact ⟨.rfAdv cnt, (BitVec.eq_of_toNat_eq hopc).symm, rfl⟩
    · exact ⟨.rfRev cnt, (BitVec.eq_of_toNat_eq hopc).symm, rfl⟩
  · rw [← countlessCommands_opc, List.mem_map] at hopc
    obtain ⟨i, hi, hopc⟩ := hopc
    exact ⟨i, BitVec.eq_of_toNat_eq hopc,
      (cnt_of_mem_countlessCommands i hi).trans (BitVec.eq_of_toNat_eq hcnt).symm⟩

/-- The words that decode to a well-formed command, by their fields as numbers (R94). -/
theorem decodesWellFormed_iff (w : Word) :
    (∃ i, decode w = .ok i ∧ i.wellFormed = true) ↔ rsvNat w = 0 ∧ legalFields (opcNat w) (cntNat w) := by
  rw [← rsvField_eq_zero_iff, ← opcField_toNat, ← cntField_toNat]
  constructor
  · rintro ⟨i, hdec, hwf⟩
    obtain ⟨hrsv, hopc, hcnt⟩ := decode_fields hdec
    rw [hopc, hcnt]
    exact ⟨hrsv, (wellFormed_iff_legalFields i).mp hwf⟩
  · rintro ⟨hrsv, hlegal⟩
    obtain ⟨i, hopc, hcnt⟩ := exists_instr_of_legalFields hlegal
    rw [← hopc, ← hcnt] at hlegal
    exact ⟨i, decode_of_fields hrsv hopc.symm hcnt.symm, (wellFormed_iff_legalFields i).mpr hlegal⟩

/-- `legal` is R94 on the fields as numbers. -/
theorem legal_iff (w : Word) : legal w = true ↔ rsvNat w = 0 ∧ legalFields (opcNat w) (cntNat w) := by
  rw [← rsvField_eq_zero_iff, ← opcField_toNat, ← cntField_toNat]
  simp [legal, legalFields, ← BitVec.toNat_inj]

/-- R95's list is the complement of R94's: an opcode is one byte, and the two lists share it out. -/
theorem illegalWord_iff (w : Word) : illegalWord w ↔ ¬(rsvNat w = 0 ∧ legalFields (opcNat w) (cntNat w)) := by
  have hbyte : opcNat w < 256 := Nat.mod_lt _ (by decide)
  simp only [illegalWord, legalFields, List.mem_cons, List.not_mem_nil, or_false]
  omega

/-- A command that is not well-formed is rejected before its operands are looked at (R94). -/
theorem operation_of_not_wellFormed (P : Params) {i : Instr} (s : State) (h : i.wellFormed = false) :
    operation P i s = .error .illegal := by
  cases i with
  | rfAdv cnt | rfRev cnt => exact if_pos h
  | _ => cases h

/-- A pending word that is no well-formed command completes with its rejection (R95). -/
theorem completeCommand_of_illegal {s : State} (h : ¬∃ i, decode s.cmd = .ok i ∧ i.wellFormed = true) :
    completeCommand s = .next (s.reject .illegal) := by
  unfold completeCommand
  split
  · rename_i i hdec
    have hwf : i.wellFormed = false := Bool.eq_false_iff.mpr fun hwf => h ⟨i, hdec, hwf⟩
    rw [exec_eq_complete, operation_of_not_wellFormed _ s hwf]
    rfl
  · rfl

/-- Settles O3: both forms of R94 are the same property of the fields, and what lacks it is rejected. -/
theorem legalWordsExactly : Obligations.LegalWordsExactly := by
  intro w
  have hlegal : legal w = true ↔ ∃ i, decode w = .ok i ∧ i.wellFormed = true :=
    (legal_iff w).trans (decodesWellFormed_iff w).symm
  refine ⟨decodesWellFormed_iff w, hlegal, ?_⟩
  rintro s rfl hillegal
  exact completeCommand_of_illegal (hlegal.not.mp (Bool.eq_false_iff.mp hillegal))

/-- Settles O4: R95's list holds exactly the words that do not decode to a well-formed command. -/
theorem illegalWordsRejected : Obligations.IllegalWordsRejected := by
  have hlist (w : Word) : illegalWord w ↔ ¬∃ i, decode w = .ok i ∧ i.wellFormed = true :=
    (illegalWord_iff w).trans (decodesWellFormed_iff w).symm.not
  exact ⟨fun s h => completeCommand_of_illegal ((hlist s.cmd).mp h), fun w h => not_not.mp ((hlist w).not.mp h)⟩

end Sys2Proof.Machine
end

-- The codec of words and bytes, and the two layers of the round function (spec/40_round_function.md R120 to R132).
section
/-! Loading and storing undo each other; each step of the diffusion, each byte of the confusion and so each round is
undone by its inverse. -/

namespace Sys2Proof.Machine

/-! ### The codec -/

@[simp] theorem wordsOfBlock_getElem (S : Block) (i : Nat) (hi : i < 6) :
    (wordsOfBlock S)[i] = load32le S[4 * i] S[4 * i + 1] S[4 * i + 2] S[4 * i + 3] := by
  simp [wordsOfBlock]

@[simp] theorem blockOfWords_getElem (v : Words6) (j : Nat) (hj : j < 24) :
    (blockOfWords v)[j] = byteOf v[j / 4] (j % 4) := by
  simp [blockOfWords]

/-- Byte k of word i stands at offset `4i + k` (R121). -/
theorem blockOfWords_getElem_offset (v : Words6) (i k : Nat) (hi : i < 6) (hk : k < 4) :
    (blockOfWords v)[4 * i + k] = byteOf v[i] k := by
  have hword : (4 * i + k) / 4 = i := by omega
  have hbyte : (4 * i + k) % 4 = k := by omega
  simp [hword, hbyte]

/-- Storing undoes loading (R120): the bytes of a loaded word are those it was loaded from. -/
theorem byteOf_load32le (f : Fin 4 → Byte) (k : Fin 4) :
    byteOf (load32le (f 0) (f 1) (f 2) (f 3)) k.val = f k := by
  have h0 := (f 0).isLt
  have h1 := (f 1).isLt
  have h2 := (f 2).isLt
  have h3 := (f 3).isLt
  refine BitVec.eq_of_toNat_eq ?_
  rw [byteOf_toNat, load32le_toNat]
  match k with
  | 0 | 1 | 2 | 3 => simp only [Fin.coe_ofNat_eq_mod, Nat.reduceMod, Nat.reduceMul]; omega

theorem wordBytes_load32le (b : Vector Byte 4) : wordBytes (load32le b[0] b[1] b[2] b[3]) = b :=
  Vector.ext fun k hk => (wordBytes_getElem _ k hk).trans (byteOf_load32le (fun k => b[k]) ⟨k, hk⟩)

theorem wordsOfBlock_blockOfWords (v : Words6) : wordsOfBlock (blockOfWords v) = v := by
  refine Vector.ext fun i hi => ?_
  have hbyte (k : Nat) (hk : k < 4) := blockOfWords_getElem_offset v i k hi hk
  have hfirst : (blockOfWords v)[4 * i] = byteOf v[i] 0 := hbyte 0 (by decide)
  rw [wordsOfBlock_getElem, hfirst, hbyte 1 (by decide), hbyte 2 (by decide), hbyte 3 (by decide), load32le_byteOf]

theorem blockOfWords_wordsOfBlock (S : Block) : blockOfWords (wordsOfBlock S) = S := by
  refine Vector.ext fun j hj => ?_
  have hload : byteOf (wordsOfBlock S)[j / 4] (j % 4) = S[4 * (j / 4) + j % 4] := by
    rw [wordsOfBlock_getElem]
    exact byteOf_load32le (fun k => S[4 * (j / 4) + k.val]) ⟨j % 4, by omega⟩
  simp only [blockOfWords_getElem, hload, Nat.div_add_mod]

/-- Settles O5: a block is its words' bytes, and each word is its four bytes. -/
theorem codecRoundTrip : Obligations.CodecRoundTrip := by
  refine ⟨load32le_toNat, fun v k => ?_, load32le_byteOf, wordBytes_load32le, by decide, fun v i k => ?_,
    blockOfWords_wordsOfBlock, wordsOfBlock_blockOfWords⟩
  · exact (congrArg _ (wordBytes_getElem v k k.isLt)).trans (byteOf_toNat v k)
  · exact (blockOfWords_getElem_offset v i k i.isLt k.isLt).trans (wordBytes_getElem _ k k.isLt).symm

/-! ### The rotation -/

theorem rotl32_of_mod_eq_zero {x : Word} {n : Nat} (h : n % 32 = 0) : rotl32 x n = x := by
  ext i hi
  simp [rotl32, h, BitVec.getElem_rotateLeft]

/-- Rotations add up. -/
theorem rotl32_rotl32 (x : Word) (m n : Nat) : rotl32 (rotl32 x m) n = rotl32 x (m + n) := by
  ext i hi
  simp only [rotl32, BitVec.getElem_rotateLeft]
  grind

theorem rotr32_rotl32 (x : Word) (n : Nat) : rotr32 (rotl32 x n) n = x := by
  rw [rotr32, rotl32_rotl32]
  exact rotl32_of_mod_eq_zero (by omega)

theorem rotl32_rotr32 (x : Word) (n : Nat) : rotl32 (rotr32 x n) n = x := by
  rw [rotr32, rotl32_rotl32]
  exact rotl32_of_mod_eq_zero (by omega)

@[simp] theorem rotl32_zero (n : Nat) : rotl32 0#32 n = 0#32 := by
  ext i hi
  simp [rotl32, BitVec.getElem_rotateLeft]

/-- The one bit of 1 goes to the place of the rotation amount (R11). -/
theorem rotl32_one (n : Nat) : rotl32 1#32 n = BitVec.ofNat 32 (2 ^ (n % 32)) := by
  have hplace : ∀ m < 32, (1#32).rotateLeft m = BitVec.ofNat 32 (2 ^ m) := by decide
  exact hplace _ (Nat.mod_lt n (by decide))

/-! ### The diffusion -/

/-- The three words that a step adds or subtracts are not the one it writes. -/
theorem neighbours_ne (i : Fin 6) : i.val ≠ (i + 1).val ∧ i.val ≠ (i + 2).val ∧ i.val ≠ (i + 3).val := by
  revert i; decide

/-- A step of the inverse diffusion undoes the forward step of its index (R124). -/
theorem undiffuseStep_diffuseStep (P : Params) (v : Words6) (i : Fin 6) :
    undiffuseStep P (diffuseStep P v i) i = v := by
  obtain ⟨h1, h2, h3⟩ := neighbours_ne i
  have hcancel (r a b c : Word) : r + a + b + c - a - b - c = r := by ring
  simp [undiffuseStep, diffuseStep, Vector.getElem_set_ne, h1, h2, h3, hcancel, rotr32_rotl32]

theorem diffuseStep_undiffuseStep (P : Params) (v : Words6) (i : Fin 6) :
    diffuseStep P (undiffuseStep P v i) i = v := by
  obtain ⟨h1, h2, h3⟩ := neighbours_ne i
  have hcancel (r a b c : Word) : r - a - b - c + a + b + c = r := by ring
  simp [undiffuseStep, diffuseStep, Vector.getElem_set_ne, h1, h2, h3, hcancel, rotl32_rotr32]

/-- Steps that undo the steps of a fold, taken in the opposite order, undo the fold. -/
theorem foldl_reverse_foldl {α β : Type} {f g : α → β → α} (h : ∀ a b, g (f a b) b = a) (l : List β) (a : α) :
    l.reverse.foldl g (l.foldl f a) = a := by
  induction l generalizing a with
  | nil => rfl
  | cons b l ih => rw [List.foldl_cons, List.reverse_cons, List.foldl_append, ih]; exact h a b

theorem undiffuse_diffuse (P : Params) : Function.LeftInverse (undiffuse P) (diffuse P) :=
  foldl_reverse_foldl (undiffuseStep_diffuseStep P) [0, 1, 2, 3, 4, 5]

theorem diffuse_undiffuse (P : Params) : Function.LeftInverse (diffuse P) (undiffuse P) :=
  foldl_reverse_foldl (diffuseStep_undiffuseStep P) [5, 4, 3, 2, 1, 0]

/-- Settles O7: the inverse takes the inverse steps in the opposite order. -/
theorem diffusionInvertible : Obligations.DiffusionInvertible := fun P v =>
  ⟨undiffuse_diffuse P v, diffuse_undiffuse P v⟩

/-- The six updated words of the diffusion (R123). -/
theorem diffuse_words (P : Params) (v : Words6) : let u := diffuse P v
    u[0] = rotl32 v[0] (P.rotR 0) + v[1] + v[2] + v[3] ∧ u[1] = rotl32 v[1] (P.rotR 1) + v[2] + v[3] + v[4] ∧
    u[2] = rotl32 v[2] (P.rotR 2) + v[3] + v[4] + v[5] ∧ u[3] = rotl32 v[3] (P.rotR 3) + v[4] + v[5] + u[0] ∧
    u[4] = rotl32 v[4] (P.rotR 4) + v[5] + u[0] + u[1] ∧ u[5] = rotl32 v[5] (P.rotR 5) + u[0] + u[1] + u[2] := by
  simp [diffuse, diffuseStep]

/-! ### The confusion -/

@[simp] theorem confuse_getElem (P : Params) (S : Block) (j : Nat) (hj : j < 24) :
    (confuse P S)[j] = S[j] * P.mul ⟨j, hj⟩ := by
  simp [confuse]

@[simp] theorem unconfuse_getElem (P : Params) (S : Block) (j : Nat) (hj : j < 24) :
    (unconfuse P S)[j] = S[j] * minv P ⟨j, hj⟩ := by
  simp [unconfuse]

/-- `MINV[j]` is the inverse of `MUL[j]` (R127). -/
theorem mul_minv (P : Params) (j : Fin 24) : P.mul j * minv P j = 1 := mul_inv256 (P.mulHigh j)

theorem unconfuse_confuse (P : Params) : Function.LeftInverse (unconfuse P) (confuse P) := fun S => by
  ext j hj
  rw [unconfuse_getElem, confuse_getElem, mul_assoc, mul_minv, mul_one]

theorem confuse_unconfuse (P : Params) : Function.LeftInverse (confuse P) (unconfuse P) := fun S => by
  ext j hj
  rw [confuse_getElem, unconfuse_getElem, mul_assoc, mul_comm (minv P _), mul_minv, mul_one]

/-- Settles O6, with the rotation as the library defines it. -/
theorem roundLayerFormulas : Obligations.RoundLayerFormulas := by
  refine ⟨fun x n => ?_, diffuse_words, fun P S j => ?_, fun P S => ⟨rfl, rfl⟩⟩
  · rw [rotl32, BitVec.rotateLeft_def, Nat.mod_mod]
  · exact (congrArg _ (confuse_getElem P S j j.isLt)).trans (BitVec.toNat_mul ..)

/-- Settles O8: two bytes with product 1 with `MUL[j]` are equal, as multiplication is commutative. -/
theorem multiplierInverseUnique : Obligations.MultiplierInverseUnique := by
  intro P j
  have hprod (b : Byte) : (P.mul j).toNat * b.toNat % 256 = 1 ↔ P.mul j * b = 1 := by
    rw [← BitVec.toNat_inj, BitVec.toNat_mul]
    rfl
  refine ⟨?_, (hprod _).mpr (mul_minv P j), fun b hb => ?_⟩
  · rw [Params.mul, BitVec.toNat_append, ← Nat.shiftLeft_add_eq_or_of_lt (by decide), Nat.shiftLeft_eq]
    have hone : (1#1).toNat = 1 := rfl
    omega
  · exact left_inv_eq_right_inv ((mul_comm b _).trans ((hprod b).mp hb)) (mul_minv P j)

/-- Settles O9, byte by byte. -/
theorem confusionInvertible : Obligations.ConfusionInvertible := by
  refine fun P S => ⟨fun j => ?_, unconfuse_confuse P S, confuse_unconfuse P S, fun j hzero => ?_⟩
  · exact (congrArg _ (unconfuse_getElem P S j j.isLt)).trans (BitVec.toNat_mul ..)
  · rw [Fin.getElem_fin] at hzero ⊢
    rw [Fin.getElem_fin, confuse_getElem, unconfuse_getElem, hzero, zero_mul, zero_mul]
    exact ⟨rfl, rfl⟩

/-! ### The round function -/

/-- The inverse round undoes the round: codec, diffusion and confusion are each undone (R131). -/
theorem reverse_advance (P : Params) : Function.LeftInverse (reverse P) (advance P) := fun S => by
  rw [advance, reverse, unconfuse_confuse, wordsOfBlock_blockOfWords, undiffuse_diffuse, blockOfWords_wordsOfBlock]

theorem advance_reverse (P : Params) : Function.LeftInverse (advance P) (reverse P) := fun S => by
  rw [advance, reverse, wordsOfBlock_blockOfWords, diffuse_undiffuse, blockOfWords_wordsOfBlock, confuse_unconfuse]

/-- Settles O10: iterates of inverse functions are inverse. -/
theorem roundFunctionRoundTrip : Obligations.RoundFunctionRoundTrip := fun P S n =>
  ⟨(reverse_advance P).iterate n S, (advance_reverse P).iterate n S⟩

/-- Every layer keeps zeros: sums, rotations and products of 0 are 0 (R132). -/
theorem advance_zero (P : Params) : advance P (Vector.replicate 24 0) = Vector.replicate 24 0 := by
  have hwords : wordsOfBlock (Vector.replicate 24 0) = Vector.replicate 6 0 := by decide
  have hstep (i : Fin 6) : diffuseStep P (Vector.replicate 6 0) i = Vector.replicate 6 0 := by
    simp [diffuseStep]
  have hdiffuse : diffuse P (Vector.replicate 6 0) = Vector.replicate 6 0 :=
    List.foldl_fixed' hstep _
  have hbytes : blockOfWords (Vector.replicate 6 0) = Vector.replicate 24 0 := by decide
  rw [advance, hwords, hdiffuse, hbytes]
  ext j hj
  simp

/-- The words 3, 4 and 5 add the updated word 0, and the words 1 and 2 add none that is not 0 (R132). -/
theorem diffuse_one (P : Params) {p : Word} (hp : rotl32 1#32 (P.rotR 0) = p) :
    diffuse P #v[1, 0, 0, 0, 0, 0] = #v[p, 0, 0, p, p, p] := by
  have hwords := diffuse_words P #v[1, 0, 0, 0, 0, 0]
  generalize diffuse P #v[1, 0, 0, 0, 0, 0] = u at hwords ⊢
  obtain ⟨h0, h1, h2, h3, h4, h5⟩ := hwords
  replace h0 : u[0] = p := by simp [h0, hp]
  replace h1 : u[1] = 0 := by simp [h1]
  replace h2 : u[2] = 0 := by simp [h2]
  replace h3 : u[3] = p := by simp [h3, h0]
  replace h4 : u[4] = p := by simp [h4, h0, h1]
  replace h5 : u[5] = p := by simp [h5, h0, h1, h2]
  refine Vector.ext fun i hi => ?_
  interval_cases i
  exacts [h0, h1, h2, h3, h4, h5]

/-- Settles O11: both zero facts are one, as reverse undoes advance, and so is the bijection. -/
theorem roundFunctionFixedFacts : Obligations.RoundFunctionFixedFacts := by
  intro P
  have hdiffuse := diffuse_one P (rotl32_one _)
  refine ⟨advance_zero P, ?_, ⟨hdiffuse, fun j => ?_⟩, (reverse_advance P).injective, (advance_reverse P).surjective⟩
  · exact (congrArg _ (advance_zero P).symm).trans (reverse_advance P _)
  · rw [advance, wordsOfBlock_blockOfWords, hdiffuse]
    exact confuse_getElem P _ j j.isLt

end Sys2Proof.Machine
end

-- RF.ADV and RF.REV (spec/40_round_function.md R140, R141).
section
/-! The result of a block command whose count and address are good, and its two rejections. -/

namespace Sys2Proof.Machine

section blockCommand
variable {P : Params} {s : State} {cnt : BitVec 4}

/-- A block command with a good count and address replaces the block at BUF_ADDR, and nothing else but STATUS. -/
theorem blockCommand_result (f : Block → Block) (hlow : 1 ≤ cnt.toNat) (hhigh : cnt.toNat ≤ 8) (hfit : s.fits P 24) :
    let t := s.complete (blockCommand P f cnt s)
    s.wroteBuf t ∧ t.memRead P s.bufAddr.toNat 24 = f^[cnt.toNat] (s.memRead P s.bufAddr.toNat 24) ∧
      s.sameOutside P t s.bufAddr.toNat 24 := by
  rcases blockCommand_cases P f cnt s with ⟨-, hbad⟩ | ⟨-, -, hbad⟩ | ⟨-, -, -, hok⟩
  · exact absurd ⟨hlow, hhigh⟩ hbad
  · exact absurd hfit hbad
  · rw [hok, complete_ok]
    exact ⟨rfl, Memory.readN_writeN_same .., fun o ho => s.byteAt_memWrite_outside P _ o _ ho⟩

/-- A block command with a good count rejects a bad address (R302). -/
theorem blockCommand_range (f : Block → Block) (hlow : 1 ≤ cnt.toNat) (hhigh : cnt.toNat ≤ 8) (hfit : ¬s.fits P 24) :
    blockCommand P f cnt s = .error .range := by
  rcases blockCommand_cases P f cnt s with ⟨-, hbad⟩ | ⟨hrange, -⟩ | ⟨-, h4, hend, -⟩
  · exact absurd ⟨hlow, hhigh⟩ hbad
  · exact hrange
  · exact absurd ⟨h4, hend⟩ hfit

end blockCommand

/-- RF.ADV is the block command of advance (R140). -/
theorem exec_rfAdv (cnt : BitVec 4) (s : State) :
    exec (.rfAdv cnt) s = .next (s.complete (blockCommand Config.params (advance Config.params) cnt s)) := rfl

/-- RF.REV is the block command of reverse (R141). -/
theorem exec_rfRev (cnt : BitVec 4) (s : State) :
    exec (.rfRev cnt) s = .next (s.complete (blockCommand Config.params (reverse Config.params) cnt s)) := rfl

/-- Settles O19: RF.ADV is the block command of advance. -/
theorem rfAdvResult : Obligations.RfAdvResult := fun cnt s hlow hhigh hfit =>
  ⟨_, exec_rfAdv cnt s, blockCommand_result (advance Config.params) hlow hhigh hfit⟩

/-- Settles O20: RF.REV is the block command of reverse. -/
theorem rfRevResult : Obligations.RfRevResult := fun cnt s hlow hhigh hfit =>
  ⟨_, exec_rfRev cnt s, blockCommand_result (reverse Config.params) hlow hhigh hfit⟩

/-- Settles O21: a bad count is not well-formed, and the address is looked at after the count. -/
theorem rfRejected : Obligations.RfRejected := by
  intro cnt s i hi
  refine ⟨fun hcnt => ?_, fun hlow hhigh haddr => ?_⟩
  · have hbad : cntOk cnt = false := by
      rw [← Bool.not_eq_true, cntOk_iff]
      omega
    have hwf : i.wellFormed = false := by
      obtain rfl | rfl := hi <;> exact hbad
    rw [exec_eq_complete, operation_of_not_wellFormed _ s hwf]
    rfl
  · have hfit : ¬s.fits Config.params 24 := by
      rintro ⟨h4, hend⟩
      omega
    obtain rfl | rfl := hi
    · rw [exec_rfAdv, blockCommand_range _ hlow hhigh hfit]
      rfl
    · rw [exec_rfRev, blockCommand_range _ hlow hhigh hfit]
      rfl

/-- BUF is the bytes of a block and the bytes outside it. -/
theorem State.byteAt_eq_of_block {P : Params} {s t : State} {a n : Nat} (hblock : t.memRead P a n = s.memRead P a n)
    (hout : s.sameOutside P t a n) (o : Nat) : t.byteAt P o = s.byteAt P o := by
  by_cases ho : o < a ∨ a + n ≤ o
  · exact hout o ho
  · obtain ⟨k, rfl⟩ : ∃ k, o = a + k := ⟨o - a, by omega⟩
    rw [← memRead_getElem P t a n k (by omega), hblock, memRead_getElem]

theorem State.wroteBuf.bufAddr_eq {s t : State} (h : s.wroteBuf t) : t.bufAddr = s.bufAddr := by
  unfold State.wroteBuf at h
  rw [h]

/-- Settles O22: RF.ADV leaves BUF_ADDR, and RF.REV undoes it on the block there. -/
theorem rfRevRestores : Obligations.RfRevRestores := by
  intro cnt s hlow hhigh hfit
  obtain ⟨t, hadv, hwrote, hblock, hout⟩ := rfAdvResult cnt s hlow hhigh hfit
  have haddr : t.bufAddr = s.bufAddr := hwrote.bufAddr_eq
  have hfit' : t.fits Config.params 24 := by
    rw [State.fits, haddr]
    exact hfit
  obtain ⟨r, hrev, -, hblock', hout'⟩ := rfRevResult cnt t hlow hhigh hfit'
  rw [haddr] at hblock' hout'
  refine ⟨t, r, hadv, hrev, State.byteAt_eq_of_block ?_ fun o ho => (hout' o ho).trans (hout o ho)⟩
  rw [hblock', hblock]
  exact (reverse_advance Config.params).iterate cnt.toNat _

end Sys2Proof.Machine
end

-- The key schedule and its two commands (spec/41_key_schedule.md R160 to R165, R180, R181).
section
/-! The sub-steps of the transformation by byte and word, the snapshots of the expansion, and the exact next state of
KEYEXP and KEYCLR. -/

namespace Sys2Proof.Machine

/-! ### The transformation -/

/-- Word i of the key state (R160). -/
theorem wordsOfKey_getElem (k : KeyState) (i : Nat) (hi : i < 8) :
    (wordsOfKey k)[i] = load32le k[4 * i] k[4 * i + 1] k[4 * i + 2] k[4 * i + 3] := by
  simp [wordsOfKey]

/-- Loading undoes storing (R160, R163): the words of the bytes of eight words are those words. -/
theorem wordsOfKey_keyOfWords (u : Words8) : wordsOfKey (keyOfWords u) = u := by
  refine Vector.ext fun i hi => ?_
  have hbyte (k : Nat) (hk : k < 4) : (keyOfWords u)[4 * i + k] = byteOf u[i] k :=
    keyOfWords_getElem u ⟨i, hi⟩ ⟨k, hk⟩
  have hfirst : (keyOfWords u)[4 * i] = byteOf u[i] 0 := hbyte 0 (by decide)
  rw [wordsOfKey_getElem, hfirst, hbyte 1 (by decide), hbyte 2 (by decide), hbyte 3 (by decide), load32le_byteOf]

/-- Byte j of the guarded key state (R161). -/
theorem wkg_getElem (P : Params) (k : KeyState) (j : Fin 32) : (wkg P k)[j] = k[j] ^^^ P.wkgH j k[j] := by
  simp [wkg]

/-- Byte p of group g after sub-step 1 (R162). -/
theorem ko1_getElem (P : Params) (k : KeyState) (g : Fin 8) (p : Fin 4) : (ko1 P k)[4 * g.val + p.val] =
    if p = P.koPos then P.koF g k[4 * g.val] k[4 * g.val + 1] k[4 * g.val + 2] k[4 * g.val + 3]
    else k[4 * g.val + p.val] := by
  have hgroup : (4 * g.val + p.val) / 4 = g.val := by omega
  have hpos : (4 * g.val + p.val) % 4 = p.val := by omega
  simp [ko1, hgroup, hpos, Fin.ext_iff]

/-- Sub-step 2 on the words of the key state (R163). -/
theorem wordsOfKey_ko2 (P : Params) (k : KeyState) : wordsOfKey (ko2 P k) = mixWords P (wordsOfKey k) :=
  wordsOfKey_keyOfWords _

/-- Word i of the mixing, from old words only (R163). -/
theorem mixWords_getElem (P : Params) (u : Words8) (i : Fin 8) :
    (mixWords P u)[i] = u[i] + rotl32 ((u[i - 1] ^^^ u[i]) + u[i - 2]) (P.ksS i) := by
  simp [mixWords]

/-- Settles O12: sub-step 2 stores the mixed words, and loading them again gives them back. -/
theorem keyTransformationSteps : Obligations.KeyTransformationSteps := by
  refine fun P k => ⟨wkg_getElem P k, ko1_getElem P k, fun i => ?_, rfl⟩
  rw [wordsOfKey_ko2, mixWords_getElem]

/-! ### The expansion -/

section expansion
variable {P : Params}

/-- The bytes of the snapshot just taken (R165). -/
theorem setSnapshot_same (rk : RoundKeys) (j : Fin 6) (k : KeyState) (i : Fin 32) :
    (setSnapshot rk j k)[32 * j.val + i.val] = k[i] := by
  have hsnap : (32 * j.val + i.val) / 32 = j.val := by omega
  have hbyte : (32 * j.val + i.val) % 32 = i.val := by omega
  simp [setSnapshot, hsnap, hbyte]

/-- A snapshot leaves the bytes of every other one alone (R165). -/
theorem setSnapshot_other (rk : RoundKeys) {j j' : Fin 6} (k : KeyState) (i : Fin 32) (h : j ≠ j') :
    (setSnapshot rk j' k)[32 * j.val + i.val] = rk[32 * j.val + i.val] := by
  have hsnap : (32 * j.val + i.val) / 32 ≠ j'.val := by omega
  simp [setSnapshot, hsnap]

/-- The key state that an expansion step hands on (R165). -/
theorem expandStep_key (r : KeyState × RoundKeys) (j : Fin 6) :
    (expandStep P r j).1 = (transform P)^[8] r.1 := rfl

/-- The round keys that an expansion step answers (R165). -/
theorem expandStep_roundKeys (r : KeyState × RoundKeys) (j : Fin 6) :
    (expandStep P r j).2 = setSnapshot r.2 j ((transform P)^[8] r.1) := rfl

/-- Expansion steps that do not take snapshot j leave its bytes alone. -/
theorem foldl_expandStep_other {l : List (Fin 6)} {j : Fin 6} (hj : j ∉ l) (r : KeyState × RoundKeys) (i : Fin 32) :
    (l.foldl (expandStep P) r).2[32 * j.val + i.val] = r.2[32 * j.val + i.val] := by
  induction l generalizing r with
  | nil => rfl
  | cons j' l ih =>
    obtain ⟨hne, hj⟩ := not_or.mp (mt List.mem_cons.mpr hj)
    rw [List.foldl_cons, ih hj, expandStep_roundKeys, setSnapshot_other _ _ i hne]

/-- The snapshot that step number n takes is the key state after `8 (n + 1)` transformations, and no later step
overwrites it. -/
theorem foldl_expandStep_snapshot {l : List (Fin 6)} (hl : l.Nodup) {n : Nat} {j : Fin 6} (hj : l[n]? = some j)
    (r : KeyState × RoundKeys) (i : Fin 32) :
    (l.foldl (expandStep P) r).2[32 * j.val + i.val] = ((transform P)^[8 * (n + 1)] r.1)[i] := by
  induction l generalizing n r with
  | nil => simp at hj
  | cons j' l ih =>
    obtain ⟨hnotin, hl⟩ := List.nodup_cons.mp hl
    rw [List.foldl_cons]
    cases n with
    | zero =>
      obtain rfl : j' = j := Option.some.inj hj
      rw [foldl_expandStep_other hnotin, expandStep_roundKeys, setSnapshot_same, Nat.zero_add, Nat.mul_one]
    | succ n => rw [ih hl hj, expandStep_key, ← Function.iterate_add_apply, ← Nat.mul_succ]

end expansion

/-- Settles O13: the expansion takes snapshot j in its step number j. -/
theorem expansionSnapshots : Obligations.ExpansionSnapshots := by
  intro P K j i
  have horder : ∀ j : Fin 6, ([0, 1, 2, 3, 4, 5] : List (Fin 6))[j.val]? = some j := by decide
  exact foldl_expandStep_snapshot (by decide) (horder j) (K, Vector.replicate 192 0) i

/-! ### The key commands -/

/-- A key command writes RK, KEYED and KEY0..KEY7, and completes (R180, R181). -/
theorem State.succeed_setContext_clearKey (s : State) (rk : RoundKeys) (keyed : Bool) :
    (s.setContext rk keyed).clearKey.succeed =
      { s with rk := rk, keyed := keyed, key := Vector.replicate 8 0, busy := false, done := true } := rfl

/-- KEYEXP expands the master key (R180). -/
theorem exec_keyexp (s : State) : exec .keyexp s =
    .next (s.setContext (expand Config.params s.masterKey) true).clearKey.succeed := rfl

/-- KEYCLR goes back to the placeholder context (R181). -/
theorem exec_keyclr (s : State) : exec .keyclr s =
    .next (s.setContext (Vector.replicate 192 0) false).clearKey.succeed := rfl

/-- Settles O23: the master key is the bytes of KEY0..KEY7, and its expansion is the new context. -/
theorem keyexpResult : Obligations.KeyexpResult := by
  refine fun s => ⟨s.masterKey, fun n k => ?_, ?_⟩
  · rw [State.masterKey, keyOfWords_getElem, byteOf_toNat]
  · rw [exec_keyexp, State.succeed_setContext_clearKey]

/-- Settles O24: the new context is the placeholder. -/
theorem keyclrResult : Obligations.KeyclrResult := fun s => by
  rw [exec_keyclr, State.succeed_setContext_clearKey]

end Sys2Proof.Machine
end

-- The single-block cipher (spec/42_block_cipher.md R200 to R204).
section
/-! The rounds of E and D, that D undoes E and E undoes D, and both under the placeholder context. -/

namespace Sys2Proof.Machine

/-! ### The round-key XOR -/

/-- The XOR with a round chunk, byte by byte (R200). -/
theorem xorBlock_chunk (S : Block) (rk : RoundKeys) (r : Fin 8) :
    xorBlock S (chunk rk r) = Vector.ofFn fun j => S[j] ^^^ rk[24 * r.val + j.val] := by
  ext j hj
  simp

theorem xorBlock_xorBlock_self (S K : Block) : xorBlock (xorBlock S K) K = S := by
  ext j hj
  rw [xorBlock_getElem, xorBlock_getElem, BitVec.xor_assoc, BitVec.xor_self, BitVec.xor_zero]

/-- A chunk of the placeholder leaves the block as it is (R204). -/
theorem xorBlock_chunk_zero (S : Block) (r : Fin 8) : xorBlock S (chunk (Vector.replicate 192 0) r) = S := by
  ext j hj
  simp

/-! ### The rounds -/

section rounds
variable (P : Params) (rk : RoundKeys) (S : Block)

/-- Decryption round r undoes encryption round r (R203). -/
theorem decRound_encRound (r : Fin 8) : decRound P rk (encRound P rk S r) r = S := by
  rw [decRound, encRound, xorBlock_xorBlock_self, reverse_advance]

theorem encRound_decRound (r : Fin 8) : encRound P rk (decRound P rk S r) r = S := by
  rw [encRound, decRound, advance_reverse, xorBlock_xorBlock_self]

/-- The state of E after its first n rounds (R201). -/
def encState (n : Nat) : Block := ((List.finRange 8).take n).foldl (encRound P rk) S

/-- The state of D with the rounds below n still to do (R202). -/
def decState (n : Nat) : Block := ((List.finRange 8).drop n).foldr (fun r T => decRound P rk T r) S

theorem encState_succ (r : Fin 8) : encState P rk S (r.val + 1) = encRound P rk (encState P rk S r.val) r := by
  have hr : r.val < (List.finRange 8).length := by simp
  rw [encState, List.take_add_one, List.getElem?_eq_getElem hr, List.foldl_append, List.getElem_finRange]
  rfl

theorem decState_eq_decRound (r : Fin 8) :
    decState P rk S r.val = decRound P rk (decState P rk S (r.val + 1)) r := by
  have hr : r.val < (List.finRange 8).length := by simp
  rw [decState, List.drop_eq_getElem_cons hr, List.foldr_cons, List.getElem_finRange]
  rfl

theorem encryptBlock_eq_encState : encryptBlock P rk S = encState P rk S 8 := rfl

theorem decryptBlock_eq_decState : decryptBlock P rk S = decState P rk S 0 := rfl

end rounds

/-- D takes the inverse rounds in the opposite order (R203). -/
theorem decryptBlock_encryptBlock (P : Params) (rk : RoundKeys) :
    Function.LeftInverse (decryptBlock P rk) (encryptBlock P rk) :=
  foldl_reverse_foldl (decRound_encRound P rk) [0, 1, 2, 3, 4, 5, 6, 7]

theorem encryptBlock_decryptBlock (P : Params) (rk : RoundKeys) :
    Function.LeftInverse (encryptBlock P rk) (decryptBlock P rk) :=
  foldl_reverse_foldl (encRound_decRound P rk) [7, 6, 5, 4, 3, 2, 1, 0]

/-- Settles O14: the states between the rounds are the partial folds, and each round is undone by its inverse. -/
theorem blockCipherRoundTrip : Obligations.BlockCipherRoundTrip := by
  refine fun P rk S => ⟨⟨encState P rk S, rfl, encryptBlock_eq_encState P rk S, fun r => ?_⟩,
    ⟨decState P rk S, rfl, decryptBlock_eq_decState P rk S, fun r => ?_⟩,
    decryptBlock_encryptBlock P rk S, encryptBlock_decryptBlock P rk S, fun T j => xorBlock_getElem S T j j.isLt⟩
  · rw [encState_succ, encRound, xorBlock_chunk]
  · rw [decState_eq_decRound, decRound, xorBlock_chunk]

/-! ### The placeholder context -/

theorem encRound_zero (P : Params) : encRound P (Vector.replicate 192 0) = fun S _ => advance P S := by
  funext S r
  rw [encRound, xorBlock_chunk_zero]

theorem decRound_zero (P : Params) : decRound P (Vector.replicate 192 0) = fun S _ => reverse P S := by
  funext S r
  rw [decRound, xorBlock_chunk_zero]

/-- Under the placeholder, E is eight rounds of advance (R204). -/
theorem encryptBlock_zero (P : Params) (S : Block) :
    encryptBlock P (Vector.replicate 192 0) S = (advance P)^[8] S := by
  rw [encryptBlock, encRound_zero, List.foldl_const]
  rfl

/-- Under the placeholder, D is eight rounds of reverse (R204). -/
theorem decryptBlock_zero (P : Params) (S : Block) :
    decryptBlock P (Vector.replicate 192 0) S = (reverse P)^[8] S := by
  rw [decryptBlock, decRound_zero, List.foldl_const]
  rfl

/-- Settles O15: advance fixes the zero block, so its iterate does. -/
theorem placeholderCipher : Obligations.PlaceholderCipher := fun P S =>
  ⟨encryptBlock_zero P S, decryptBlock_zero P S,
    (encryptBlock_zero P _).trans (Function.iterate_fixed (advance_zero P) 8)⟩

end Sys2Proof.Machine
end

-- The mode commands as one kind of command (spec/43_modes.md R220 to R223).
section
/-! Each mode command is the shared prologue and block loop around its own block function; so what the prologue
rejects, what a region of n blocks becomes, and what the outputs do is said once for the six. -/

namespace Sys2Proof.Machine

/-! ### The six commands -/

section equations
variable (P : Params) (s : State)

theorem operation_ecbEnc : operation P .ecbEnc s = modeCommand P (ecbEncBlock P s.rk) () (fun _ t => t) s := rfl

theorem operation_ecbDec : operation P .ecbDec s = modeCommand P (ecbDecBlock P s.rk) () (fun _ t => t) s := rfl

theorem operation_cbcEnc : operation P .cbcEnc s = modeCommand P (cbcEncBlock P s.rk) s.ivBlock State.setChainOut s :=
  rfl

theorem operation_cbcDec : operation P .cbcDec s = modeCommand P (cbcDecBlock P s.rk) s.ivBlock State.setChainOut s :=
  rfl

theorem operation_ofbXcrypt : operation P .ofbXcrypt s =
    modeCommand P (ofbBlock P s.rk) s.ivBlock State.setChainOut s := rfl

theorem operation_ctrXcrypt : operation P .ctrXcrypt s =
    modeCommand P (ctrModeBlock P s.rk s.nonceBytes) s.counter State.setCtrOut s := rfl

/-- The six mode commands differ in the block function, the first chaining value and the report only. -/
theorem operation_mode {i : Instr} (hi : i ∈ modeCommands) :
    ∃ (σ : Type) (f : σ → Block → Block × σ) (c : σ) (report : σ → State → State),
      operation P i s = modeCommand P f c report s := by
  simp only [modeCommands, List.mem_cons, List.not_mem_nil, or_false] at hi
  rcases hi with rfl | rfl | rfl | rfl | rfl | rfl
  · exact ⟨_, _, _, _, operation_ecbEnc P s⟩
  · exact ⟨_, _, _, _, operation_ecbDec P s⟩
  · exact ⟨_, _, _, _, operation_cbcEnc P s⟩
  · exact ⟨_, _, _, _, operation_cbcDec P s⟩
  · exact ⟨_, _, _, _, operation_ofbXcrypt P s⟩
  · exact ⟨_, _, _, _, operation_ctrXcrypt P s⟩

end equations

/-! ### The prologue -/

section prologue
variable {P : Params} {i : Instr} {s t : State}

/-- LENGTH is looked at first, whatever BUF_ADDR is (R220). -/
theorem operation_mode_length (hi : i ∈ modeCommands) (hlen : s.len.toNat % 24 ≠ 0) :
    operation P i s = .error .length := by
  obtain ⟨σ, f, c, report, hop⟩ := operation_mode P s hi
  rw [hop]
  rcases modeCommand_cases P f c report s with ⟨hlength, -⟩ | ⟨-, hgood, -⟩ | ⟨hgood, -⟩
  · exact hlength
  · exact absurd hgood hlen
  · exact absurd hgood hlen

/-- RANGE is looked at for a good LEN (R220). -/
theorem operation_mode_range (hi : i ∈ modeCommands) (hlen : s.len.toNat % 24 = 0) (hfit : ¬s.fits P s.len.toNat) :
    operation P i s = .error .range := by
  obtain ⟨σ, f, c, report, hop⟩ := operation_mode P s hi
  rw [hop]
  rcases modeCommand_cases P f c report s with ⟨-, hbad⟩ | ⟨hrange, -⟩ | ⟨-, h4, hend, -⟩
  · exact absurd hlen hbad
  · exact hrange
  · exact absurd ⟨h4, hend⟩ hfit

theorem operation_mode_ok (hi : i ∈ modeCommands) (h : s.regionOk P) : ∃ t, operation P i s = .ok t := by
  obtain ⟨σ, f, c, report, hop⟩ := operation_mode P s hi
  obtain ⟨hlen, h4, hend⟩ := h
  exact ⟨_, hop.trans (modeCommand_ok f c report hlen h4 hend)⟩

/-- A mode command whose region does not pass the prologue is rejected (R220). -/
theorem exec_mode_rejected (hi : i ∈ modeCommands) (h : ¬s.regionOk Config.params) :
    ∃ c, exec i s = .next (s.reject c) := by
  rw [exec_eq_complete]
  by_cases hlen : s.len.toNat % 24 = 0
  · exact ⟨_, by rw [operation_mode_range hi hlen fun hfit => h ⟨hlen, hfit⟩, complete_error]⟩
  · exact ⟨_, by rw [operation_mode_length hi hlen, complete_error]⟩

end prologue

/-- Settles O31, by the two rejections of the shared prologue. -/
theorem modePrologueRejects : Obligations.ModePrologueRejects := by
  intro i s hi
  refine ⟨fun hlen => ?_, fun hlen hrange => ?_⟩
  · rw [exec_eq_complete, operation_mode_length hi hlen]
    rfl
  · have hfit : ¬s.fits Config.params s.len.toNat := by
      rintro ⟨h4, hend⟩
      omega
    rw [exec_eq_complete, operation_mode_range hi hlen hfit]
    rfl

/-! ### A region of n blocks -/

/-- The completion of a mode command whose block loop ended with BUF and chaining value `r` (R221). -/
def State.blocksDone {σ : Type} (report : σ → State → State) (s : State) (r : Memory × σ) : State :=
  (report r.2 { s with buf := r.1 }).succeed

section blocks
variable {σ : Type} {i : Instr} {f : σ → Block → Block × σ} {c : σ} {report : σ → State → State} {s : State}

/-- A mode command over n blocks that fit completes with the block loop's result (R220, R221). -/
theorem exec_mode_blocks {n : Nat}
    (hop : operation Config.params i s = modeCommand Config.params f c report s) (hlen : s.len.toNat = 24 * n)
    (hfit : s.fits Config.params (24 * n)) :
    exec i s = .next (s.blocksDone report
      (chainBlocks (s.unlisted Config.params) f n s.bufAddr.toNat c s.buf)) := by
  obtain ⟨h4, hend⟩ := hfit
  have hblocks : s.len.toNat / 24 = n := by omega
  rw [exec_eq_complete, hop, modeCommand_ok f c report (by omega) h4 (by omega), hblocks]
  rfl

/-- With no block, the loop answers BUF and the first chaining value as they are (R223). -/
theorem exec_mode_empty (hop : operation Config.params i s = modeCommand Config.params f c report s)
    (hlen : s.len = 0) (hfit : s.fits Config.params 0) : exec i s = .next (report c s).succeed :=
  exec_mode_blocks (n := 0) hop (by simp [hlen]) hfit

end blocks

/-- CHAIN_OUT of IV is the registers of IV (R33, R36). -/
theorem State.setChainOut_ivBlock (s : State) : s.setChainOut s.ivBlock = { s with chainOut := s.iv } := by
  rw [State.setChainOut, State.ivBlock, wordsOfBlock_blockOfWords]

/-- CTR_OUT of CTR is the registers of CTR (R31, R35). -/
theorem State.setCtrOut_counter (s : State) :
    s.setCtrOut s.counter = { s with ctrOutLo := s.ctrLo, ctrOutHi := s.ctrHi } := by
  rw [State.setCtrOut, State.counter, BitVec.extractLsb'_append_eq_right, BitVec.extractLsb'_append_eq_left]

/-- Settles O32: the empty loop reports the first chaining value, which is IV or CTR, and RANGE is checked as ever. -/
theorem emptyRegion : Obligations.EmptyRegion := by
  intro s hlen
  have hlen' : s.len.toNat = 0 := by simp [hlen]
  refine ⟨fun h4 hend => ?_, fun hbad i hi => (modePrologueRejects i s hi).2 (by omega) (by omega)⟩
  have hfit : s.fits Config.params 0 := ⟨h4, hend⟩
  refine ⟨fun i hi => ?_, fun i hi => ?_, ?_⟩
  · rcases List.mem_pair.mp hi with rfl | rfl
    · exact exec_mode_empty (operation_ecbEnc _ s) hlen hfit
    · exact exec_mode_empty (operation_ecbDec _ s) hlen hfit
  · have hchained : exec i s = .next (s.setChainOut s.ivBlock).succeed := by
      simp only [List.mem_cons, List.not_mem_nil, or_false] at hi
      rcases hi with rfl | rfl | rfl
      · exact exec_mode_empty (operation_cbcEnc _ s) hlen hfit
      · exact exec_mode_empty (operation_cbcDec _ s) hlen hfit
      · exact exec_mode_empty (operation_ofbXcrypt _ s) hlen hfit
    rw [hchained, s.setChainOut_ivBlock]
    rfl
  · rw [exec_mode_empty (operation_ctrXcrypt _ s) hlen hfit, s.setCtrOut_counter]
    rfl

/-! ### The output registers -/

/-- The commands that report in CHAIN_OUT (R36). -/
def chainedCommands : List Instr := [.cbcEnc, .cbcDec, .ofbXcrypt]

/-- `t` with other output registers, except those that the command reports in (R35, R36). -/
def State.withOutputs (i : Instr) (c : Vector Word 6) (lo hi : Word) (t : State) : State :=
  { t with
    chainOut := if i ∈ chainedCommands then t.chainOut else c
    ctrOutLo := if i = .ctrXcrypt then t.ctrOutLo else lo
    ctrOutHi := if i = .ctrXcrypt then t.ctrOutHi else hi }

section outputs
variable {i : Instr} {s t : State}

/-- A mode command's outcome with other output registers, where its report takes no notice of them. -/
theorem modeCommand_outputs {σ : Type} {P : Params} {f : σ → Block → Block × σ} {d : σ} {report : σ → State → State}
    (c : Vector Word 6) (lo hi : Word)
    (hreport : ∀ e u, report e { u with chainOut := c, ctrOutLo := lo, ctrOutHi := hi }
      = (report e u).withOutputs i c lo hi) (s : State) :
    modeCommand P f d report { s with chainOut := c, ctrOutLo := lo, ctrOutHi := hi }
      = (modeCommand P f d report s).map (State.withOutputs i c lo hi) := by
  have hprologue : State.regionBlocks P { s with chainOut := c, ctrOutLo := lo, ctrOutHi := hi } = s.regionBlocks P :=
    rfl
  unfold modeCommand
  rw [hprologue]
  cases s.regionBlocks P with
  | error e => rfl
  | ok n => exact congrArg Except.ok (hreport _ { s with buf := _ })

/-- A command does the same from other output registers (R222). -/
theorem operation_outputs (P : Params) (i : Instr) (s : State) (c : Vector Word 6) (lo hi : Word) :
    operation P i { s with chainOut := c, ctrOutLo := lo, ctrOutHi := hi }
      = (operation P i s).map (State.withOutputs i c lo hi) := by
  cases i with
  | nop | keyexp | keyclr => rfl
  | tblchk =>
    show tblchkCommand P _ = (tblchkCommand P s).map _
    rw [tblchkCommand, tblchkCommand, if_pos (tablesMatch_true P), if_pos (tablesMatch_true P)]
    rfl
  | rfAdv cnt | rfRev cnt =>
    show blockCommand P _ cnt _ = (blockCommand P _ cnt s).map _
    have hrange : State.inRange P { s with chainOut := c, ctrOutLo := lo, ctrOutHi := hi } 24 = s.inRange P 24 := rfl
    unfold blockCommand
    rw [hrange]
    split_ifs <;> rfl
  | ecbEnc => exact modeCommand_outputs (report := fun (_ : Unit) t => t) c lo hi (fun _ _ => rfl) s
  | ecbDec => exact modeCommand_outputs (report := fun (_ : Unit) t => t) c lo hi (fun _ _ => rfl) s
  | cbcEnc | cbcDec | ofbXcrypt | ctrXcrypt => exact modeCommand_outputs c lo hi (fun _ _ => rfl) s

/-- CHAIN_OUT is written by the CBC and OFB commands whose region passes the prologue, and by nothing else (R36). -/
theorem exec_keeps_chainOut (h : exec i s = .next t) (hi : ¬(i ∈ chainedCommands ∧ s.regionOk Config.params)) :
    t.chainOut = s.chainOut := by
  by_cases hchained : i ∈ chainedCommands
  · have hmode : i ∈ modeCommands := (by decide : chainedCommands ⊆ modeCommands) hchained
    obtain ⟨e, hreject⟩ := exec_mode_rejected hmode fun hok => hi ⟨hchained, hok⟩
    cases h.symm.trans hreject
    rfl
  · exact exec_leaves_chainOut h hchained

/-- CTR_OUT is written by CTR.XCRYPT whose region passes the prologue, and by nothing else (R35). -/
theorem exec_keeps_ctrOut (h : exec i s = .next t) (hi : ¬(i = .ctrXcrypt ∧ s.regionOk Config.params)) :
    t.ctrOutLo = s.ctrOutLo ∧ t.ctrOutHi = s.ctrOutHi := by
  by_cases hctr : i = .ctrXcrypt
  · have hmode : i ∈ modeCommands := by rw [hctr]; decide
    obtain ⟨e, hreject⟩ := exec_mode_rejected hmode fun hok => hi ⟨hctr, hok⟩
    cases h.symm.trans hreject
    exact ⟨rfl, rfl⟩
  · exact exec_leaves_ctrOut h hctr

/-- A mode command whose region passes the prologue takes the same result from other output registers (R222). -/
theorem exec_mode_outputs {t' : State} {c : Vector Word 6} {lo hi : Word} (hmode : i ∈ modeCommands)
    (hok : s.regionOk Config.params) (h : exec i s = .next t)
    (h' : exec i { s with chainOut := c, ctrOutLo := lo, ctrOutHi := hi } = .next t') :
    t' = t.withOutputs i c lo hi := by
  obtain ⟨u, hu⟩ := operation_mode_ok hmode hok
  rw [exec_eq_complete, hu] at h
  rw [exec_eq_complete, operation_outputs, hu] at h'
  cases h
  cases h'
  rfl

/-- Only the output registers can differ in the result (R222). -/
theorem exec_outputs_frame {t' : State} {c : Vector Word 6} {lo hi : Word} (h : exec i s = .next t)
    (h' : exec i { s with chainOut := c, ctrOutLo := lo, ctrOutHi := hi } = .next t') :
    t' = { t with chainOut := t'.chainOut, ctrOutLo := t'.ctrOutLo, ctrOutHi := t'.ctrOutHi } := by
  rw [exec_eq_complete] at h
  rw [exec_eq_complete, operation_outputs] at h'
  cases hop : operation Config.params i s with
  | error e | ok u =>
    rw [hop] at h h'
    cases h
    cases h'
    rfl

end outputs

/-- Settles O36: the operation is the same from other output registers, and each keeps what its command does not
write. -/
theorem outputsAreNotRead : Obligations.OutputsAreNotRead := by
  intro i s t t' c lo hi h h'
  refine ⟨exec_outputs_frame h h', ?_, fun hnot => ?_, ?_, fun hnot => ?_, ?_⟩
  · rintro ⟨hchained, hok⟩
    have hmode : i ∈ modeCommands := (by decide : chainedCommands ⊆ modeCommands) hchained
    rw [exec_mode_outputs hmode hok h h']
    exact if_pos hchained
  · exact ⟨exec_keeps_chainOut h hnot, exec_keeps_chainOut h' hnot⟩
  · rintro ⟨rfl, hok⟩
    rw [exec_mode_outputs (by decide) hok h h']
    exact ⟨rfl, rfl⟩
  · obtain ⟨hlo, hhi⟩ := exec_keeps_ctrOut h hnot
    exact ⟨hlo, hhi, exec_keeps_ctrOut h' hnot⟩
  · rw [exec_frame h]
    exact ⟨rfl, rfl, rfl, rfl⟩

end Sys2Proof.Machine
end

-- The results of the ECB, CBC and OFB commands (spec/43_modes.md R225 to R240), and the counter block (R245).
section
/-! The chaining values of each mode say what each block of the region becomes and what is reported. -/

namespace Sys2Proof.Machine

/-! ### The counter block -/

/-- Byte `16 + k` of the counter block is byte k of the counter (R245). -/
theorem ctrBlock_getElem_counter (P : Params) (N : Vector Byte 12) (c : BitVec 64) (k : Nat) (hk : 16 + k < 24) :
    (ctrBlock P N c)[16 + k] = c.extractLsb' (8 * k) 8 := by
  have hfield : ¬16 + k < 4 ∧ ¬16 + k < 16 := by omega
  simp [ctrBlock, hfield]

/-- Byte k of a half of the counter (R120, R245). -/
theorem byteOf_extractLsb' (c : BitVec 64) (half k : Nat) (hk : k < 4) :
    byteOf (c.extractLsb' (32 * half) 32) k = c.extractLsb' (8 * (4 * half + k)) 8 := by
  ext i hi
  have hbit : 8 * k + i < 32 := by omega
  have hoffset : 32 * half + (8 * k + i) = 8 * (4 * half + k) + i := by omega
  simp [byteOf, hbit, hoffset]

/-- Words 4 and 5 of the counter block are the halves of the counter (R245). -/
theorem wordsOfBlock_ctrBlock (P : Params) (N : Vector Byte 12) (c : BitVec 64) (half : Nat) (hhalf : 4 + half < 6) :
    (wordsOfBlock (ctrBlock P N c))[4 + half] = c.extractLsb' (32 * half) 32 := by
  have hbyte (k : Nat) (hk : k < 4) :
      (ctrBlock P N c)[4 * (4 + half) + k]'(by omega) = byteOf (c.extractLsb' (32 * half) 32) k := by
    have hoffset : 4 * (4 + half) + k = 16 + (4 * half + k) := by omega
    simp only [hoffset, ctrBlock_getElem_counter, byteOf_extractLsb' c half k hk]
  have hfirst : (ctrBlock P N c)[4 * (4 + half)] = _ := hbyte 0 (by decide)
  rw [wordsOfBlock_getElem, hfirst, hbyte 1 (by decide), hbyte 2 (by decide), hbyte 3 (by decide), load32le_byteOf]

/-- Settles O16, by the three fields of the block, and the counter's two words. -/
theorem counterBlockLayout : Obligations.CounterBlockLayout := by
  refine fun P N c => ⟨fun j => ?_, fun j => ?_, fun k => ?_,
    wordsOfBlock_ctrBlock P N c 0 (by decide), wordsOfBlock_ctrBlock P N c 1 (by decide)⟩
  · simp [ctrBlock]
  · have hfield : ¬4 + j.val < 4 ∧ 4 + j.val < 16 := by omega
    simp [ctrBlock, hfield]
  · rw [ctrBlock_getElem_counter, BitVec.extractLsb'_toNat, Nat.shiftRight_eq_div_pow]

/-! ### The chaining values -/

section chaining
variable {σ : Type}

/-- Chaining values that do not depend on the blocks are iterates (R240). -/
theorem chain_eq_iterate {cs : Nat → σ} {g : σ → σ} {c : σ} {n : Nat} (hfirst : cs 0 = c)
    (hnext : ∀ b < n, cs (b + 1) = g (cs b)) : ∀ b ≤ n, cs b = g^[b] c := by
  intro b
  induction b with
  | zero => exact fun _ => hfirst
  | succ b ih =>
    intro hb
    rw [hnext b hb, ih (by omega), Function.iterate_succ_apply']

/-- Chaining values that are blocks: the first one, and then the block before (R230, R235). -/
theorem chain_eq_previous {cs y : Nat → σ} {c : σ} {n : Nat} (hfirst : cs 0 = c)
    (hnext : ∀ b < n, cs (b + 1) = y b) : ∀ b ≤ n, cs b = if b = 0 then c else y (b - 1)
  | 0, _ => hfirst
  | b + 1, hb => hnext b hb

/-- A mode command whose region passes the prologue completes with the chaining values of its block function (R221). -/
theorem exec_mode_result {i : Instr} {f : σ → Block → Block × σ} {c : σ} {report : σ → State → State} {s : State}
    (hop : operation Config.params i s = modeCommand Config.params f c report s) (h : s.regionOk Config.params) :
    ∃ (cs : Nat → σ) (m : Memory),
      exec i s = .next (report (cs (s.len.toNat / 24)) { s with buf := m }).succeed ∧ cs 0 = c ∧
      (∀ b < s.len.toNat / 24,
        State.blockAt Config.params { s with buf := m } b = (f (cs b) (s.blockAt Config.params b)).1 ∧
        cs (b + 1) = (f (cs b) (s.blockAt Config.params b)).2) ∧
      s.sameOutside Config.params { s with buf := m } s.bufAddr.toNat s.len.toNat := by
  obtain ⟨cs, m, hmode, hrest⟩ := modeCommand_result f c report h
  exact ⟨cs, m, by rw [exec_eq_complete, hop, hmode, complete_ok], hrest⟩

end chaining

/-- A region has no block exactly when LEN is 0 (R223). -/
theorem State.regionOk.blocks_eq_zero_iff {P : Params} {s : State} (h : s.regionOk P) :
    s.len.toNat / 24 = 0 ↔ s.len.toNat = 0 := by
  obtain ⟨hlen, -⟩ := h
  omega

/-! ### The commands -/

section results
variable {i : Instr} {s : State}

/-- A mode command with no chaining value puts its cipher on every block of the region (R225, R226). -/
theorem exec_ecb_result {E : Block → Block}
    (hop : operation Config.params i s = modeCommand Config.params (fun _ x => (E x, ())) () (fun _ t => t) s)
    (h : s.regionOk Config.params) :
    ∃ t, exec i s = .next t ∧ s.wroteBuf t ∧
      (∀ b < s.len.toNat / 24, t.blockAt Config.params b = E (s.blockAt Config.params b)) ∧
      s.sameOutside Config.params t s.bufAddr.toNat s.len.toNat := by
  obtain ⟨cs, m, hexec, -, hblocks, hout⟩ := exec_mode_result hop h
  exact ⟨_, hexec, rfl, fun b hb => (hblocks b hb).1, hout⟩

/-- A mode command that reports in CHAIN_OUT leaves its last chaining value there (R36). -/
theorem exec_chained_result {f : Block → Block → Block × Block} {c : Block}
    (hop : operation Config.params i s = modeCommand Config.params f c State.setChainOut s)
    (h : s.regionOk Config.params) :
    ∃ (cs : Nat → Block) (t : State), exec i s = .next t ∧
      t = { s with buf := t.buf, chainOut := t.chainOut, busy := false, done := true } ∧ cs 0 = c ∧
      (∀ b < s.len.toNat / 24, t.blockAt Config.params b = (f (cs b) (s.blockAt Config.params b)).1 ∧
        cs (b + 1) = (f (cs b) (s.blockAt Config.params b)).2) ∧
      blockOfWords t.chainOut = cs (s.len.toNat / 24) ∧
      s.sameOutside Config.params t s.bufAddr.toNat s.len.toNat := by
  obtain ⟨cs, m, hexec, hfirst, hblocks, hout⟩ := exec_mode_result hop h
  exact ⟨cs, _, hexec, rfl, hfirst, hblocks, blockOfWords_wordsOfBlock _, hout⟩

end results

/-- Settles O25: the cipher is E. -/
theorem ecbEncResult : Obligations.EcbEncResult := fun s => exec_ecb_result (operation_ecbEnc _ s)

/-- Settles O26: the cipher is D. -/
theorem ecbDecResult : Obligations.EcbDecResult := fun s => exec_ecb_result (operation_ecbDec _ s)

/-- Settles O27: each chaining value of CBC.ENC is the output block before. -/
theorem cbcEncResult : Obligations.CbcEncResult := by
  intro s h
  obtain ⟨cs, t, hexec, hframe, hfirst, hblocks, hchain, hout⟩ := exec_chained_result (operation_cbcEnc _ s) h
  have hcs := chain_eq_previous (y := t.blockAt Config.params) hfirst fun b hb =>
    (hblocks b hb).2.trans (hblocks b hb).1.symm
  refine ⟨t, hexec, hframe, fun b hb => ?_, ?_, hout⟩
  · rw [(hblocks b hb).1, hcs b hb.le]
    rfl
  · rw [hchain, hcs _ le_rfl]
    exact if_congr h.blocks_eq_zero_iff rfl rfl

/-- Settles O28: each chaining value of CBC.DEC is the input block before. -/
theorem cbcDecResult : Obligations.CbcDecResult := by
  intro s h
  obtain ⟨cs, t, hexec, hframe, hfirst, hblocks, hchain, hout⟩ := exec_chained_result (operation_cbcDec _ s) h
  have hcs := chain_eq_previous (y := s.blockAt Config.params) hfirst fun b hb => (hblocks b hb).2
  refine ⟨t, hexec, hframe, fun b hb => ?_, ?_, hout⟩
  · rw [(hblocks b hb).1, hcs b hb.le]
    rfl
  · rw [hchain, hcs _ le_rfl]
    exact if_congr h.blocks_eq_zero_iff rfl rfl

/-- Settles O29: the chaining values of OFB are the iterates of E on IV. -/
theorem ofbXcryptResult : Obligations.OfbXcryptResult := by
  intro s h
  obtain ⟨cs, t, hexec, hframe, hfirst, hblocks, hchain, hout⟩ := exec_chained_result (operation_ofbXcrypt _ s) h
  have hcs := chain_eq_iterate (g := encryptBlock Config.params s.rk) hfirst fun b hb => (hblocks b hb).2
  refine ⟨t, hexec, hframe, fun b hb => ?_, hchain.trans (hcs _ le_rfl), hout⟩
  rw [Function.iterate_succ_apply', (hblocks b hb).1, hcs b hb.le]
  rfl

end Sys2Proof.Machine
end

-- Round trips, keystreams and split regions (spec/43_modes.md R230, R255, R256).
section
/-! A block function that undoes another, from the same chaining value and with the same next one, undoes it over the
whole region; and the block loop over n + m blocks is the loop over n and then over m. -/

namespace Sys2Proof.Machine

/-! ### Undoing a block function -/

/-- From every chaining value, `g` gives back the block that `f` took and goes on to the same chaining value. -/
def BlockUndoes {σ : Type} (g f : σ → Block → Block × σ) : Prop := ∀ c x, g c (f c x).1 = (x, (f c x).2)

section undo
variable (P : Params) (rk : RoundKeys)

theorem ecbDecBlock_undoes : BlockUndoes (ecbDecBlock P rk) (ecbEncBlock P rk) := fun _ x =>
  Prod.ext (decryptBlock_encryptBlock P rk x) rfl

/-- CBC.DEC takes the chaining value off again, and its own next one is the block it was given (R230, R235). -/
theorem cbcDecBlock_undoes : BlockUndoes (cbcDecBlock P rk) (cbcEncBlock P rk) := by
  intro c x
  refine Prod.ext ?_ rfl
  show xorBlock (decryptBlock P rk (encryptBlock P rk (xorBlock x c))) c = x
  rw [decryptBlock_encryptBlock, xorBlock_xorBlock_self]

theorem ofbBlock_undoes : BlockUndoes (ofbBlock P rk) (ofbBlock P rk) := fun _ x =>
  Prod.ext (xorBlock_xorBlock_self x _) rfl

theorem ctrModeBlock_undoes (N : Vector Byte 12) : BlockUndoes (ctrModeBlock P rk N) (ctrModeBlock P rk N) :=
  fun _ x => Prod.ext (xorBlock_xorBlock_self x _) rfl

end undo

section loop
variable {σ : Type} {u : Nat → Byte} {f g : σ → Block → Block × σ}

/-- An offset at or after `a` and below `a + 24n` is in one of the n blocks. -/
theorem exists_block_offset {a n o : Nat} (hlow : a ≤ o) (hhigh : o < a + 24 * n) :
    ∃ b < n, ∃ k < 24, o = a + 24 * b + k :=
  ⟨(o - a) / 24, by omega, (o - a) % 24, by omega, by omega⟩

/-- The loop of a block function that undoes another gives every byte of BUF its value back (R255). -/
theorem read_chainBlocks_of_undoes (h : BlockUndoes g f) (n a : Nat) (c : σ) (m : Memory) (o : Nat) :
    Memory.read u (chainBlocks u g n a c (chainBlocks u f n a c m).1).1 o = Memory.read u m o := by
  obtain ⟨cs, hfirst, -, hblocks, hout⟩ := chainBlocks_spec (u := u) f n a c m
  obtain ⟨ds, hfirst', -, hblocks', hout'⟩ := chainBlocks_spec (u := u) g n a c (chainBlocks u f n a c m).1
  have hundo (b : Nat) (hb : b < n) (hd : ds b = cs b) :
      g (ds b) (Memory.readN u (chainBlocks u f n a c m).1 (a + 24 * b) 24)
        = (Memory.readN u m (a + 24 * b) 24, cs (b + 1)) := by
    rw [hd, (hblocks b hb).1, (hblocks b hb).2, h]
  have hchain : ∀ b ≤ n, ds b = cs b := by
    intro b
    induction b with
    | zero => exact fun _ => hfirst'.trans hfirst.symm
    | succ b ih =>
      intro hb
      rw [(hblocks' b hb).2, hundo b hb (ih (by omega))]
  by_cases ho : o < a ∨ a + 24 * n ≤ o
  · rw [hout' o ho, hout o ho]
  · obtain ⟨b, hb, k, hk, rfl⟩ := exists_block_offset (a := a) (n := n) (o := o) (by omega) (by omega)
    rw [← Memory.readN_getElem _ (a + 24 * b) 24 k hk, (hblocks' b hb).1, hundo b hb (hchain b hb.le),
      Memory.readN_getElem]

/-- The loop over `n + m` blocks is the loop over n, and then over m from where it ended (R221). -/
theorem chainBlocks_add (n m a : Nat) (c : σ) (M : Memory) :
    chainBlocks u f (n + m) a c M
      = chainBlocks u f m (a + 24 * n) (chainBlocks u f n a c M).2 (chainBlocks u f n a c M).1 := by
  induction n generalizing a c M with
  | zero => rw [Nat.zero_add]; rfl
  | succ n ih =>
    rw [Nat.succ_add, chainBlocks, ih, show a + 24 * (n + 1) = a + 24 + 24 * n by omega]
    rfl

end loop

/-! ### The round trips -/

/-- A region that passes the prologue is its number of blocks (R220). -/
theorem State.regionOk.len_eq {P : Params} {s : State} (h : s.regionOk P) : s.len.toNat = 24 * (s.len.toNat / 24) := by
  obtain ⟨hlen, -⟩ := h
  omega

theorem State.regionOk.fits_blocks {P : Params} {s : State} (h : s.regionOk P) :
    s.fits P (24 * (s.len.toNat / 24)) := by
  rw [← h.len_eq]
  exact h.2

/-- The report of a chaining value leaves BUF and the registers that say where the region is. -/
def KeepsRegion {σ : Type} (report : σ → State → State) : Prop :=
  ∀ d u, (report d u).buf = u.buf ∧ (report d u).bufEpoch = u.bufEpoch ∧ (report d u).bufAddr = u.bufAddr ∧
    (report d u).len = u.len

theorem keepsRegion_setChainOut : KeepsRegion State.setChainOut := fun _ _ => ⟨rfl, rfl, rfl, rfl⟩

theorem keepsRegion_setCtrOut : KeepsRegion State.setCtrOut := fun _ _ => ⟨rfl, rfl, rfl, rfl⟩

/-- ECB reports nothing (R225). -/
theorem keepsRegion_none : KeepsRegion fun (_ : Unit) t => t := fun _ _ => ⟨rfl, rfl, rfl, rfl⟩

section roundTrip
variable {σ : Type} {report report' : σ → State → State}

theorem KeepsRegion.byteAt_blocksDone (h : KeepsRegion report) (P : Params) (s : State) (r : Memory × σ) (o : Nat) :
    (s.blocksDone report r).byteAt P o = Memory.read (s.unlisted P) r.1 o := by
  obtain ⟨hbuf, hepoch, -, -⟩ := h r.2 { s with buf := r.1 }
  simp only [State.byteAt, State.blocksDone, State.unlisted, State.succeed_buf, State.succeed_bufEpoch, hbuf, hepoch]

/-- A mode command and then the one whose block function undoes its own, from the same first chaining value, restore
every byte of BUF (R255). -/
theorem exec_mode_undo {i j : Instr} {f g : σ → Block → Block × σ} {c : σ} {s : State} (hundo : BlockUndoes g f)
    (hreport : KeepsRegion report) (hreport' : KeepsRegion report') (h : s.regionOk Config.params)
    (hop : operation Config.params i s = modeCommand Config.params f c report s)
    (hop' : ∀ r, operation Config.params j (s.blocksDone report r)
      = modeCommand Config.params g c report' (s.blocksDone report r)) :
    ∃ t r, exec i s = .next t ∧ exec j t = .next r ∧
      ∀ o, r.byteAt Config.params o = s.byteAt Config.params o := by
  have hfirst := exec_mode_blocks hop h.len_eq h.fits_blocks
  generalize hr : chainBlocks _ f _ _ c s.buf = r at hfirst
  obtain ⟨hbuf, hepoch, haddr, hlen⟩ := hreport r.2 { s with buf := r.1 }
  have hlen' : (s.blocksDone report r).len.toNat = _ := (congrArg BitVec.toNat hlen).trans h.len_eq
  have haddr' : (s.blocksDone report r).bufAddr = s.bufAddr := haddr
  have hsecond := exec_mode_blocks (hop' r) hlen' (by rw [State.fits, haddr']; exact h.fits_blocks)
  have hunlisted : (s.blocksDone report r).unlisted Config.params = s.unlisted Config.params :=
    congrArg Config.params.bufDraw hepoch
  refine ⟨_, _, hfirst, hsecond, fun o => ?_⟩
  rw [hreport'.byteAt_blocksDone, hunlisted, haddr', show (s.blocksDone report r).buf = r.1 from hbuf, ← hr]
  exact read_chainBlocks_of_undoes hundo _ _ c s.buf o

end roundTrip

/-- Settles O33: each second command undoes the first, block by block, from the same registers. -/
theorem modesRoundTrip : Obligations.ModesRoundTrip := by
  intro s f g hpair h
  simp only [List.mem_cons, Prod.mk.injEq, List.not_mem_nil, or_false] at hpair
  rcases hpair with ⟨rfl, rfl⟩ | ⟨rfl, rfl⟩ | ⟨rfl, rfl⟩ | ⟨rfl, rfl⟩
  · exact exec_mode_undo (ecbDecBlock_undoes _ s.rk) keepsRegion_none keepsRegion_none h
      (operation_ecbEnc _ s) fun _ => operation_ecbDec _ _
  · exact exec_mode_undo (cbcDecBlock_undoes _ s.rk) keepsRegion_setChainOut keepsRegion_setChainOut h
      (operation_cbcEnc _ s) fun _ => operation_cbcDec _ _
  · exact exec_mode_undo (ofbBlock_undoes _ s.rk) keepsRegion_setChainOut keepsRegion_setChainOut h
      (operation_ofbXcrypt _ s) fun _ => operation_ofbXcrypt _ _
  · exact exec_mode_undo (ctrModeBlock_undoes _ s.rk s.nonceBytes) keepsRegion_setCtrOut keepsRegion_setCtrOut h
      (operation_ctrXcrypt _ s) fun _ => operation_ctrXcrypt _ _

/-! ### The keystream -/

/-- Block b of the keystream of OFB.XCRYPT or CTR.XCRYPT (R240, R250). -/
def State.keystream (P : Params) (s : State) : Instr → Nat → Block
  | .ctrXcrypt, b => encryptBlock P s.rk (ctrBlock P s.nonceBytes (s.counter + BitVec.ofNat 64 b))
  | _, b => (encryptBlock P s.rk)^[b + 1] s.ivBlock

/-- OFB.XCRYPT and CTR.XCRYPT XOR their keystream into the region (R240, R250). -/
theorem exec_xors_keystream {i : Instr} {s : State} (hi : i = .ofbXcrypt ∨ i = .ctrXcrypt)
    (h : s.regionOk Config.params) :
    ∃ t, exec i s = .next t ∧ ∀ b < s.len.toNat / 24,
      t.blockAt Config.params b = xorBlock (s.blockAt Config.params b) (s.keystream Config.params i b) := by
  rcases hi with rfl | rfl
  · obtain ⟨t, ht, -, hblocks, -⟩ := ofbXcryptResult s h
    exact ⟨t, ht, hblocks⟩
  · obtain ⟨-, -, t, ht, -, hblocks, -⟩ := ctrXcryptResult s h
    exact ⟨t, ht, hblocks⟩

/-- The keystream is a function of RK, IV, NONCE and CTR (R256). -/
theorem State.keystream_congr (P : Params) {s s' : State} (hrk : s'.rk = s.rk) (hiv : s'.iv = s.iv)
    (hnonce : s'.nonce = s.nonce) (hlo : s'.ctrLo = s.ctrLo) (hhi : s'.ctrHi = s.ctrHi) :
    s'.keystream P = s.keystream P := by
  funext i b
  simp only [State.keystream, State.nonceBytes, State.counter, State.ivBlock, hrk, hiv, hnonce, hlo, hhi]

/-- What was XORed into a block is the XOR of the new block and the old. -/
theorem xorBlock_xorBlock_left (S K : Block) : xorBlock (xorBlock S K) S = K := by
  have hcomm : xorBlock S K = xorBlock K S := by
    ext j hj
    rw [xorBlock_getElem, xorBlock_getElem, BitVec.xor_comm]
  rw [hcomm, xorBlock_xorBlock_self]

/-- Settles O34: the XOR of a block with its old value is the keystream's block, and the round trip is R255's. -/
theorem keystreamIndependentOfData : Obligations.KeystreamIndependentOfData := by
  intro s s' i hi h hrk hiv hnonce hlo hhi haddr hlen
  have h' : s'.regionOk Config.params := by
    rw [State.regionOk, State.fits, haddr, hlen]
    exact h
  have hpair : (i, i) ∈ [(Instr.ecbEnc, Instr.ecbDec), (.cbcEnc, .cbcDec), (.ofbXcrypt, .ofbXcrypt),
      (.ctrXcrypt, .ctrXcrypt)] := by
    rcases hi with rfl | rfl <;> decide
  obtain ⟨t, r, ht, hr, hrestored⟩ := modesRoundTrip s i i hpair h
  obtain ⟨t₁, ht₁, hblocks⟩ := exec_xors_keystream hi h
  obtain ⟨t', ht', hblocks'⟩ := exec_xors_keystream hi h'
  obtain rfl : t = t₁ := Host.Outcome.next.inj (ht.symm.trans ht₁)
  refine ⟨t, t', r, ht, ht', hr, fun b hb => ?_, hrestored⟩
  rw [hblocks b hb, hblocks' b (by rw [hlen]; exact hb), xorBlock_xorBlock_left, xorBlock_xorBlock_left,
    State.keystream_congr _ hrk hiv hnonce hlo hhi]

/-! ### Split regions -/

/-- A number of bytes that fits in BUF fits in a register (R7). -/
theorem toNat_ofNat_of_le_bufBytes (P : Params) {n : Nat} (h : n ≤ P.bufBytes) : (BitVec.ofNat 32 n).toNat = n := by
  obtain ⟨-, hmax, -⟩ := bufBytes_bounds P
  rw [BitVec.toNat_ofNat]
  omega

/-- CBC.ENC over n blocks ends with the block loop's result `r` (R230). -/
theorem exec_cbcEnc_blocks {s : State} {n : Nat} {r : Memory × Block} (hlen : s.len.toNat = 24 * n)
    (h4 : s.bufAddr.toNat % 4 = 0) (hend : s.bufAddr.toNat + 24 * n ≤ Config.params.bufBytes)
    (hloop : chainBlocks (s.unlisted Config.params) (cbcEncBlock Config.params s.rk) n s.bufAddr.toNat s.ivBlock s.buf
      = r) : exec .cbcEnc s = .next (s.blocksDone State.setChainOut r) := by
  rw [← hloop]
  exact exec_mode_blocks (operation_cbcEnc _ s) hlen ⟨h4, hend⟩

/-- CBC.ENC over m more blocks, from where the loop over the blocks before ended with `r` (R230). -/
theorem exec_cbcEnc_continues {s : State} {m : Nat} {r r' : Memory × Block} {a l : Word} (hlen : l.toNat = 24 * m)
    (h4 : a.toNat % 4 = 0) (hend : a.toNat + 24 * m ≤ Config.params.bufBytes)
    (hloop : chainBlocks (s.unlisted Config.params) (cbcEncBlock Config.params s.rk) m a.toNat r.2 r.1 = r') :
    ∃ t, exec .cbcEnc { s.blocksDone State.setChainOut r with
        iv := (s.blocksDone State.setChainOut r).chainOut, bufAddr := a, len := l } = .next t ∧
      t.chainOut = wordsOfBlock r'.2 ∧
      ∀ o, t.byteAt Config.params o = Memory.read (s.unlisted Config.params) r'.1 o := by
  rw [← blockOfWords_wordsOfBlock r.2] at hloop
  exact ⟨_, exec_cbcEnc_blocks (r := r') hlen h4 hend hloop, rfl, keepsRegion_setChainOut.byteAt_blocksDone _ _ r'⟩

/-- Settles O35: the loop over both parts is the loop over the first and then the second, and the second command's IV
is the first's last chaining value. -/
theorem cbcEncSplits : Obligations.CbcEncSplits := by
  rintro s n m ⟨h4, hend⟩
  have hn := toNat_ofNat_of_le_bufBytes Config.params (n := 24 * n) (by omega)
  have hm := toNat_ofNat_of_le_bufBytes Config.params (n := 24 * m) (by omega)
  have hnm := toNat_ofNat_of_le_bufBytes Config.params (n := 24 * n + 24 * m) (by omega)
  have haddr : (s.bufAddr + BitVec.ofNat 32 (24 * n)).toNat = s.bufAddr.toNat + 24 * n := by
    obtain ⟨-, hmax, -⟩ := bufBytes_bounds Config.params
    rw [BitVec.toNat_add, hn]
    omega
  have hloop := chainBlocks_add (u := s.unlisted Config.params) (f := cbcEncBlock Config.params s.rk) n m
    s.bufAddr.toNat s.ivBlock s.buf
  rw [← haddr] at hloop
  have hfirst := exec_cbcEnc_blocks (s := { s with len := BitVec.ofNat 32 (24 * n) }) hn h4 (by dsimp only; omega) rfl
  have hwhole := exec_cbcEnc_blocks (s := { s with len := BitVec.ofNat 32 (24 * n + 24 * m) }) (n := n + m)
    (by rw [hnm, mul_add]) h4 (by dsimp only; omega) hloop
  obtain ⟨r, hsecond, hchain, hbytes⟩ := exec_cbcEnc_continues (s := { s with len := BitVec.ofNat 32 (24 * n) })
    hm (a := s.bufAddr + BitVec.ofNat 32 (24 * n)) (by omega) (by omega) rfl
  refine ⟨_, r, _, hfirst, hsecond, hwhole, hchain, fun o => ?_⟩
  rw [hbytes, keepsRegion_setChainOut.byteAt_blocksDone]
  rfl

end Sys2Proof.Machine
end

-- The control commands (spec/44_control.md R270, R271).
section
/-! NOP and TBLCHK have operations that succeed and write nothing, so that only the completion step is left. -/

namespace Sys2Proof.Machine

/-- A command whose operation succeeds and writes nothing changes BUSY and DONE only (R300). -/
theorem exec_of_operation_ok_self {i : Instr} {s : State} (h : operation Config.params i s = .ok s) :
    exec i s = .next { s with busy := false, done := true } := by
  rw [exec_eq_complete, h, complete_ok, State.succeed]

theorem operation_nop (P : Params) (s : State) : operation P .nop s = .ok s := rfl

/-- The table test passes, so TBLCHK does what NOP does (R271). -/
theorem operation_tblchk (P : Params) (s : State) : operation P .tblchk s = .ok s := by
  rw [operation, tblchkCommand, if_pos (tablesMatch_true P)]

/-- Settles O17: the operation of NOP is empty. -/
theorem nopCompletes : Obligations.NopCompletes := fun s => exec_of_operation_ok_self (operation_nop _ s)

/-- Settles O18: MINV holds the inverses of MUL (R127), so the table test passes. -/
theorem tblchkCompletes : Obligations.TblchkCompletes := by
  refine fun s => ⟨fun j => ?_, exec_of_operation_ok_self (operation_tblchk _ s)⟩
  obtain ⟨-, hprod, -⟩ := multiplierInverseUnique Config.params j
  exact hprod

end Sys2Proof.Machine
end

-- The unit's turn, its error report and the interrupt (spec/60_exceptions.md R300, R302, R303, R310).
section
/-! The completion of a word answers a rejection or a success, and the error code is that of the first check that fails;
the unit's turn is this completion where it is enabled, and a step is the turn that comes first. -/

namespace Sys2Proof.Machine

/-! ### The unit's turn -/

section unitTurn
variable {s t : State}

theorem unitTurn_of_enabled (hbusy : s.busy = true) (hhigh : s.rstLow = false) : unitTurn s = completeCommand s :=
  if_pos (by simp [State.enabled, hbusy, hhigh])

theorem unitTurn_of_disabled (h : s.busy = false ∨ s.rstLow = true) : unitTurn s = .next s :=
  if_neg (by rcases h with h | h <;> simp [State.enabled, h])

theorem completeCommand_of_decode {i : Instr} (h : decode s.cmd = .ok i) : completeCommand s = exec i s := by
  unfold completeCommand
  rw [h]

/-- What every completion leaves and sets, rejected or not (R300, R302). -/
theorem State.completedTo.fields (h : s.completedTo t) :
    t.busy = false ∧ t.done = true ∧ t.cmd = s.cmd ∧ t.ie = s.ie ∧ t.bufAddr = s.bufAddr ∧ t.len = s.len := by
  unfold State.completedTo at h
  rw [h]
  exact ⟨rfl, rfl, rfl, rfl, rfl, rfl⟩

/-- The operation of a command does not write the error report (R42). -/
theorem State.operated.report_eq (h : s.operated t) : t.err = s.err ∧ t.errCode = s.errCode := by
  unfold State.operated at h
  rw [h]
  exact ⟨rfl, rfl⟩

/-- Where a completion left the state: a rejection, or the result of an operation (R300, R303). -/
theorem completeCommand_cases (h : completeCommand s = .next t) :
    (∃ c, t = s.reject c) ∨ ∃ u, s.operated u ∧ t = u.succeed := by
  unfold completeCommand at h
  split at h
  · rcases exec_cases h with hreject | ⟨u, hu, ht⟩
    · exact .inl hreject
    · exact .inr ⟨u, operation_operated hu, ht⟩
  · cases h
    exact .inl ⟨.illegal, rfl⟩

end unitTurn

/-- Settles O38: the turn is the completion exactly where it is enabled, and every completion answers a next state. -/
theorem completionStep : Obligations.CompletionStep := by
  refine fun s => ⟨fun hbusy hhigh => ⟨unitTurn_of_enabled hbusy hhigh, ?_⟩, unitTurn_of_disabled⟩
  obtain ⟨t, ht, hdone⟩ := completeCommand_completes s
  obtain ⟨hidle, hset, hcmd, -⟩ := hdone.fields
  exact ⟨t, ht, hidle, hset, hcmd⟩

/-- Settles O39: a success leaves ERR clear, so the completion was a rejection, which writes STATUS alone. -/
theorem rejectionChangesOnlyStatus : Obligations.RejectionChangesOnlyStatus := by
  intro s t hclear h herr
  rcases completeCommand_cases h with ⟨c, rfl⟩ | ⟨u, hu, rfl⟩
  · refine ⟨rfl, fun hzero => ?_⟩
    obtain ⟨hlow, -⟩ := c.code_bounds
    rw [State.reject_errCode] at hzero
    simp [hzero] at hlow
  · obtain ⟨hkeep, -⟩ := hu.report_eq
    rw [State.succeed_err, hkeep, hclear] at herr
    cases herr

/-! ### The interrupt -/

/-- Settles O41: every completion sets DONE; the W1C of bit 1 and acceptance clear it. -/
theorem interruptLevel : Obligations.InterruptLevel := by
  refine ⟨fun s => by simp [State.irq], fun s d hbit => ?_, fun s w hidle => ?_, fun s t h => ?_, fun _ _ => rfl⟩
  · obtain ⟨-, hwrite⟩ := statusReadAndClear s
    rw [hwrite d]
    simp [State.irq, hbit]
  · obtain ⟨haccept, -⟩ := cmdWriteAccepts
    rw [(haccept s w).1 hidle]
    simp [State.irq]
  · obtain ⟨t', ht', hdone⟩ := completeCommand_completes s
    obtain rfl : t = t' := by simpa [h] using ht'
    obtain ⟨-, hset, -, hie, -⟩ := hdone.fields
    rw [State.irq, hset, hie, Bool.and_true]

/-! ### The error code -/

/-- The number that an operation reports: that of its rejection, 0 for none (R302). -/
def reportedCode : Except RejectCode State → Nat
  | .ok _ => 0
  | .error c => c.code.toNat

/-- The completion step puts the reported number in ERRCODE, and ERR says that it is not 0. -/
theorem State.complete_report {s : State} {r : Except RejectCode State} (hframe : ∀ u, r = .ok u → s.operated u)
    (hclear : s.err = false) (hzero : s.errCode = 0) :
    (s.complete r).errCode.toNat = reportedCode r ∧
      ((s.complete r).err = true ↔ (s.complete r).errCode ≠ 0) := by
  cases r with
  | error c => cases c <;> simp [reportedCode, RejectCode.code]
  | ok u =>
    obtain ⟨herr, hcode⟩ := (hframe u rfl).report_eq
    simp [reportedCode, herr, hcode, hclear, hzero]

/-- The commands by the checks that they make: the prologue of R220, the region of one block, or none. -/
theorem instr_check_cases (i : Instr) :
    i ∈ modeCommands ∨ (∃ cnt, i = .rfAdv cnt ∨ i = .rfRev cnt) ∨ i ∈ [.nop, .tblchk, .keyexp, .keyclr] := by
  cases i with
  | rfAdv cnt => exact .inr (.inl ⟨cnt, .inl rfl⟩)
  | rfRev cnt => exact .inr (.inl ⟨cnt, .inr rfl⟩)
  | nop | tblchk | keyexp | keyclr => exact .inr (.inr (by decide))
  | ecbEnc | ecbDec | cbcEnc | cbcDec | ofbXcrypt | ctrXcrypt => exact .inl (by decide)

/-- How a region fails the RANGE check (R302). -/
theorem State.not_fits_iff {P : Params} {s : State} {n : Nat} :
    ¬s.fits P n ↔ s.bufAddr.toNat % 4 ≠ 0 ∨ P.bufBytes < s.bufAddr.toNat + n := by
  rw [State.fits, not_and_or, not_le]

section reportedCode
variable {P : Params} {i : Instr} {s : State}

theorem reportedCode_mode (hi : i ∈ modeCommands) : reportedCode (operation P i s) =
    if s.len.toNat % 24 ≠ 0 then 2 else if ¬s.fits P s.len.toNat then 3 else 0 := by
  split_ifs with hlen hfit
  · rw [operation_mode_length hi hlen]
    rfl
  · obtain ⟨u, hu⟩ := operation_mode_ok hi ⟨not_not.mp hlen, hfit⟩
    rw [hu]
    rfl
  · rw [operation_mode_range hi (not_not.mp hlen) hfit]
    rfl

theorem reportedCode_block {f : Block → Block} {cnt : BitVec 4} (hcnt : cntOk cnt = true) :
    reportedCode (blockCommand P f cnt s) = if ¬s.fits P 24 then 3 else 0 := by
  rw [cntOk_iff] at hcnt
  rcases blockCommand_cases P f cnt s with ⟨-, hbad⟩ | ⟨hrange, -, hfit⟩ | ⟨-, h4, hend, hok⟩
  · exact absurd hcnt hbad
  · rw [hrange, if_pos hfit]
    rfl
  · rw [hok, if_neg (not_not.mpr ⟨h4, hend⟩)]
    rfl

/-- NOP, TBLCHK and the key commands check no operand; the table test of TBLCHK passes (R271). -/
theorem reportedCode_unchecked (hi : i ∈ [Instr.nop, .tblchk, .keyexp, .keyclr]) :
    reportedCode (operation P i s) = 0 := by
  simp only [List.mem_cons, List.not_mem_nil, or_false] at hi
  rcases hi with rfl | rfl | rfl | rfl
  · rfl
  · rw [operation_tblchk]
    rfl
  · rfl
  · rfl

end reportedCode

/-- MINV is computed from MUL, so no entry of the table is wrong (R127). -/
theorem no_wrong_table_entry (P : Params) : ¬∃ j, (P.mul j).toNat * (minv P j).toNat % 256 ≠ 1 := by
  rintro ⟨j, hj⟩
  obtain ⟨-, hprod, -⟩ := multiplierInverseUnique P j
  exact hj hprod

/-- The order of the checks of R302 after the check of the word, by the number of the command's opcode. -/
theorem reportedCode_operation {i : Instr} (s : State) (hwf : i.wellFormed = true) :
    reportedCode (operation Config.params i s) =
      if 0x20 ≤ i.opc.toNat ∧ s.len.toNat % 24 ≠ 0 then 2
      else if (0x20 ≤ i.opc.toNat ∧ ¬s.fits Config.params s.len.toNat) ∨
        ((i.opc.toNat = 1 ∨ i.opc.toNat = 2) ∧ ¬s.fits Config.params 24) then 3
      else if i.opc.toNat = 3 ∧ ∃ j, (Config.params.mul j).toNat * (minv Config.params j).toNat % 256 ≠ 1 then 4
      else 0 := by
  have htable := no_wrong_table_entry Config.params
  rcases instr_check_cases i with hi | ⟨cnt, rfl | rfl⟩ | hi
  · have hopc : ∀ i ∈ modeCommands, 0x20 ≤ i.opc.toNat ∧ ¬(i.opc.toNat = 1 ∨ i.opc.toNat = 2) := by decide
    obtain ⟨hmode, hblock⟩ := hopc i hi
    rw [reportedCode_mode hi]
    simp only [hmode, hblock, htable, true_and, false_and, and_false, or_false, if_false]
  · exact (reportedCode_block hwf).trans (by simp [Instr.opc, htable])
  · exact (reportedCode_block hwf).trans (by simp [Instr.opc, htable])
  · have hopc : ∀ i ∈ [Instr.nop, .tblchk, .keyexp, .keyclr],
        ¬0x20 ≤ i.opc.toNat ∧ ¬(i.opc.toNat = 1 ∨ i.opc.toNat = 2) := by decide
    obtain ⟨hmode, hblock⟩ := hopc i hi
    rw [reportedCode_unchecked hi]
    simp only [hmode, hblock, htable, false_and, and_false, or_false, if_false]

/-- Settles O40: a word that is not legal is rejected before its operands are looked at, and a legal one reports what
its command's checks do. -/
theorem errorCodeOrder : Obligations.ErrorCodeOrder := by
  intro s hclear hzero
  obtain ⟨-, hdecodes, hreject⟩ := legalWordsExactly s.cmd
  obtain ⟨t, ht, hdone⟩ := completeCommand_completes s
  obtain ⟨-, -, hcmd, -, haddr, hlen⟩ := hdone.fields
  refine ⟨t, ht, hcmd, haddr, hlen, ?_⟩
  by_cases hbad : legal s.cmd = false
  · obtain rfl := Host.Outcome.next.inj (ht.symm.trans (hreject s rfl hbad))
    rw [if_pos hbad]
    simp
  · obtain ⟨i, hdec, hwf⟩ := hdecodes.mp (by simpa using hbad)
    obtain ⟨-, hopc, -⟩ := decode_fields hdec
    rw [completeCommand_of_decode hdec, exec_eq_complete] at ht
    obtain rfl := Host.Outcome.next.inj ht
    obtain ⟨hcode, herr⟩ := State.complete_report (fun _ => operation_operated) hclear hzero
    refine ⟨herr, hcode.trans ?_⟩
    rw [if_neg hbad, ← opcField_toNat, hopc, reportedCode_operation s hwf]
    simp only [State.not_fits_iff]

/-! ### One step -/

section transactions
variable {P : Params} {s : State}

theorem State.readTransaction_pinHigh (hhigh : s.rstLow = false) (a : BusAddr) :
    s.readTransaction P a = { (s.hostRead P a).2 with rdata := some (s.hostRead P a).1 } :=
  if_neg (by simp [hhigh])

theorem State.readTransaction_pinLow (hlow : s.rstLow = true) (a : BusAddr) :
    s.readTransaction P a = { s with rdata := some (P.resetReadData s.readDraws), readDraws := s.readDraws + 1 } :=
  if_pos hlow

theorem State.writeTransaction_pinHigh (hhigh : s.rstLow = false) (a : BusAddr) (d : Word) :
    s.writeTransaction P a d = { s.hostWrite P a d with rdata := none } :=
  if_neg (by simp [hhigh])

theorem State.writeTransaction_pinLow (hlow : s.rstLow = true) (a : BusAddr) (d : Word) :
    s.writeTransaction P a d = { s with rdata := none } :=
  if_pos hlow

end transactions

/-- Where the unit's turn comes next, waiting or not, the step answers what that turn answers on the state less it. -/
theorem step_of_unit_next {s : State} {answer : State → Host.Outcome State Fault Refusal}
    (h : ∀ es, unitTurn { s with events := es } = answer { s with events := es }) :
    (s.events = [] → step s = answer s) ∧
      ∀ rest, s.events = .unit :: rest → step s = answer { s with events := rest } :=
  ⟨fun hev => (step_of_events_nil hev).trans (h s.events), fun rest hev => (step_of_events_cons hev).trans (h rest)⟩

/-- Settles O55: the step is the first turn that waits, or the unit's; each clause is that turn's equation on the state
less the turn. -/
theorem stepRunsDecodedCommand : Obligations.StepRunsDecodedCommand := by
  refine ⟨fun s i hbusy hhigh hdec _ => step_of_unit_next (answer := exec i) fun es => ?_,
    fun s hbusy hhigh => step_of_unit_next (answer := completeCommand) fun es => ?_,
    fun s hoff => step_of_unit_next (answer := .next) fun es => ?_,
    fun s a d rest hhigh => ⟨fun hev => ?_, fun hev => ?_⟩,
    fun s a d rest hlow => ⟨fun hev => ⟨Config.params.resetReadData s.readDraws, ?_⟩, fun hev => ?_⟩,
    fun s rest => ⟨step_of_events_cons, step_of_events_cons⟩⟩
  · have hunit := unitTurn_of_enabled (s := { s with events := es }) hbusy hhigh
    exact hunit.trans (completeCommand_of_decode hdec)
  · exact unitTurn_of_enabled hbusy hhigh
  · exact unitTurn_of_disabled hoff
  · have hread := State.readTransaction_pinHigh (P := Config.params) (s := { s with events := rest }) hhigh a
    exact (step_of_events_cons hev).trans (congrArg _ hread)
  · have hwrite := State.writeTransaction_pinHigh (P := Config.params) (s := { s with events := rest }) hhigh a d
    exact (step_of_events_cons hev).trans (congrArg _ hwrite)
  · have hread := State.readTransaction_pinLow (P := Config.params) (s := { s with events := rest }) hlow a
    exact (step_of_events_cons hev).trans (congrArg _ hread)
  · have hwrite := State.writeTransaction_pinLow (P := Config.params) (s := { s with events := rest }) hlow a d
    exact (step_of_events_cons hev).trans (congrArg _ hwrite)

end Sys2Proof.Machine
end

-- The reset pin (spec/70_reset_and_hazards.md R350, spec/20_memory.md R61).
section
/-! The reset values bind neither the pin, the read-data port, the waiting turns nor the counters, so that whatever
changes those alone keeps the values: a transaction in reset, and the rise of the pin. -/

namespace Sys2Proof.Machine

section resetPin
variable {P : Params} {s : State}

/-! ### The edges of the pin -/

theorem State.pinLow_pinHigh (hhigh : s.rstLow = false) : s.pinLow = s.assertReset := if_neg (by simp [hhigh])

theorem State.pinLow_pinLow (hlow : s.rstLow = true) : s.pinLow = s := if_pos hlow

/-- The falling edge drops what was written to BUF, so that each byte is that of the new draw (R61). -/
theorem State.assertReset_byteAt (P : Params) (s : State) (o : Nat) :
    s.assertReset.byteAt P o = P.bufDraw (s.bufEpoch + 1) o :=
  Memory.read_nil o

theorem State.assertReset_atResetValues (s : State) : s.assertReset.atResetValues := rfl

/-! ### What keeps the reset values -/

theorem State.atResetValues.withSurroundings (h : s.atResetValues) (low : Bool) (r : Option Word) (es : List Event)
    (n : Nat) : State.atResetValues { s with rstLow := low, rdata := r, events := es, readDraws := n } := by
  unfold State.atResetValues at h ⊢
  rw [h]

theorem State.atResetValues.readTransaction (h : s.atResetValues) (hlow : s.rstLow = true) (a : BusAddr) :
    (s.readTransaction P a).atResetValues := by
  rw [State.readTransaction_pinLow hlow]
  exact h.withSurroundings s.rstLow _ s.events _

theorem State.atResetValues.writeTransaction (h : s.atResetValues) (hlow : s.rstLow = true) (a : BusAddr) (d : Word) :
    (s.writeTransaction P a d).atResetValues := by
  rw [State.writeTransaction_pinLow hlow]
  exact h.withSurroundings s.rstLow none s.events s.readDraws

theorem State.atResetValues.releaseReset (h : s.atResetValues) : s.releaseReset.atResetValues :=
  h.withSurroundings false s.rdata s.events s.readDraws

/-- CTRL.IE = 0 at reset, therefore irq = 0 (R350). -/
theorem State.atResetValues.irq (h : s.atResetValues) : s.irq = false := by
  have hie : s.ie = false := congrArg State.ie h
  rw [State.irq, hie, Bool.false_and]

/-- In reset a read moves the read-data port and the count of such reads, and no byte of BUF (R350). -/
theorem State.readTransaction_byteAt (hlow : s.rstLow = true) (a : BusAddr) :
    (s.readTransaction P a).byteAt P = s.byteAt P := by
  rw [State.readTransaction_pinLow hlow]
  rfl

theorem State.writeTransaction_byteAt (hlow : s.rstLow = true) (a : BusAddr) (d : Word) :
    (s.writeTransaction P a d).byteAt P = s.byteAt P := by
  rw [State.writeTransaction_pinLow hlow]
  rfl

end resetPin

/-- Settles O54, by the three phases of a reset: the falling edge, the time in which the pin is low, and the rise. -/
theorem resetEvent : Obligations.ResetEvent := by
  refine ⟨fun s hhigh => ?falls, fun s a d hlow h => ?low, fun s h => ⟨rfl, h.releaseReset, h.irq⟩⟩
  case falls =>
    rw [State.pinLow_pinHigh hhigh]
    exact ⟨rfl, s.assertReset_atResetValues, rfl, s.assertReset_byteAt _, rfl, rfl⟩
  case low =>
    exact ⟨h.readTransaction hlow a, h.writeTransaction hlow a d, State.readTransaction_byteAt hlow a,
      State.writeTransaction_byteAt hlow a d, unitTurn_of_disabled (.inr hlow), State.pinLow_pinLow hlow⟩

end Sys2Proof.Machine
end
